-- ==== Sys2Proof/Word.lean ====
section
/-! DEFINITION. The word types of the block: 32-bit register and operand words, bytes, and the 64-bit command word.
Signed 32-bit values are held as their two's-complement patterns (00_scope.md R7, 30_encoding.md R83). -/

namespace Sys2Proof

/-- A 32-bit word: an `s32` step value, a `u32` register value or a binary32 pattern (00_scope.md R7). -/
abbrev Word := BitVec 32

/-- One byte of a frame, a datagram or an opcode field. -/
abbrev Byte := BitVec 8

/-- One 64-bit command word of format `C` (30_encoding.md R80); formats `I` and `E` number the block's own operations
the same way (R85). -/
abbrev Command := BitVec 64

end Sys2Proof
end

