-- ==== Sys2Proof/Syntax.lean ====
section
/-! DEFINITION. The instructions: one constructor for each row of spec/opcode_table.json, 29 host commands
(30_encoding.md R84), 6 internal driver operations and 4 events (R85). Operands are the fields of R81. -/

namespace Sys2Proof

/-- One operation of the block. `v` and `a` are `A:s32`, `fbits` is `A:f32`, `m` is `B:u16`, a `Bool` is `X:bool`, and
`p` is the low three bits of `X:pid`, which 30_encoding.md R81 limits to 0..6 (`Instr.wf`). -/
inductive Instr where
  | resetPos (v : Word)
  | setInstr (v : Word)
  | setInstrPark (v : Word) (m : BitVec 16)
  | setTarget (v : Word)
  | setTargetPark (v : Word) (m : BitVec 16)
  | setSync (on : Bool)
  | blDisable
  | blEnable
  | setBlAmount (a : Word)
  | markOrigin
  | getMotor
  | getInstr
  | getTarget
  | getBl
  | getTDist
  | getOtDist
  | getRampDir
  | setFreq (fbits : Word)
  | getFreq
  | setEnable (on : Bool)
  | setSlew (on : Bool)
  | getMode
  | getSlewRatio
  | drvInit
  | valParam (p : BitVec 3) (v : Word)
  | setParam (p : BitVec 3) (v : Word)
  | getParam (p : BitVec 3)
  | getStatus
  | calibrate
  | drvMsTrack
  | drvMsSlew
  | drvDecayTrack
  | drvDecaySlew
  | drvUpdateStatus
  | drvPower (on : Bool)
  | evTickStd
  | evTickFast
  | evModePoll
  | evStatusPoll
deriving DecidableEq, Repr

end Sys2Proof
end

