-- ==== Sys2Proof/WellFormed.lean ====
section
/-! DEFINITION. Well-formed instructions: what the operand forms of 30_encoding.md R81 demand beyond the widths that the
constructors already fix. -/

namespace Sys2Proof

/-- A parameter id lies in 0..6 (`X:pid`, 30_encoding.md R81); three bits leave only 7 outside. -/
def pidOk (p : BitVec 3) : Bool := p != 7#3

/-- The instruction can be written as a word of its row: its parameter id, where it has one, is in 0..6. -/
def Instr.wf : Instr → Bool
  | .valParam p _ => pidOk p
  | .setParam p _ => pidOk p
  | .getParam p => pidOk p
  | .resetPos _ => true
  | .setInstr _ => true
  | .setInstrPark _ _ => true
  | .setTarget _ => true
  | .setTargetPark _ _ => true
  | .setSync _ => true
  | .blDisable => true
  | .blEnable => true
  | .setBlAmount _ => true
  | .markOrigin => true
  | .getMotor => true
  | .getInstr => true
  | .getTarget => true
  | .getBl => true
  | .getTDist => true
  | .getOtDist => true
  | .getRampDir => true
  | .setFreq _ => true
  | .getFreq => true
  | .setEnable _ => true
  | .setSlew _ => true
  | .getMode => true
  | .getSlewRatio => true
  | .drvInit => true
  | .getStatus => true
  | .calibrate => true
  | .drvMsTrack => true
  | .drvMsSlew => true
  | .drvDecayTrack => true
  | .drvDecaySlew => true
  | .drvUpdateStatus => true
  | .drvPower _ => true
  | .evTickStd => true
  | .evTickFast => true
  | .evModePoll => true
  | .evStatusPoll => true

/-- A host command: format `C` of 30_encoding.md R84. The internal operations and the events are raised by the block
alone (R85). -/
def Instr.isHostCommand : Instr → Bool
  | .drvMsTrack => false
  | .drvMsSlew => false
  | .drvDecayTrack => false
  | .drvDecaySlew => false
  | .drvUpdateStatus => false
  | .drvPower _ => false
  | .evTickStd => false
  | .evTickFast => false
  | .evModePoll => false
  | .evStatusPoll => false
  | .resetPos _ => true
  | .setInstr _ => true
  | .setInstrPark _ _ => true
  | .setTarget _ => true
  | .setTargetPark _ _ => true
  | .setSync _ => true
  | .blDisable => true
  | .blEnable => true
  | .setBlAmount _ => true
  | .markOrigin => true
  | .getMotor => true
  | .getInstr => true
  | .getTarget => true
  | .getBl => true
  | .getTDist => true
  | .getOtDist => true
  | .getRampDir => true
  | .setFreq _ => true
  | .getFreq => true
  | .setEnable _ => true
  | .setSlew _ => true
  | .getMode => true
  | .getSlewRatio => true
  | .drvInit => true
  | .valParam _ _ => true
  | .setParam _ _ => true
  | .getParam _ => true
  | .getStatus => true
  | .calibrate => true

end Sys2Proof
end

