-- ==== Sys2Proof/Decode.lean ====
section
/-! DEFINITION. The decoder of command words (30_encoding.md R80, R81, R84, R85, R92), total and rejecting by name, and
after it the encoder, written from the same tables. -/

namespace Sys2Proof

/-- Why a word is no instruction. Every reason gives result ILLEGAL at the command port (30_encoding.md R81, R92). -/
inductive Reject where
  /-- The bytes are not one 8-byte word (R80, R91). -/
  | badLength
  /-- The opcode is not assigned (R84, R92). -/
  | unlistedOpcode
  /-- The host issued an internal or event opcode, 0xE0..0xFF (R85). -/
  | blockOpcode
  /-- A field that the operand form does not use is not zero (R81). -/
  | reservedField
  /-- `X:bool` outside {0, 1} (R81). -/
  | boolOutOfRange
  /-- `X:pid` outside 0..6 (R81). -/
  | pidOutOfRange
deriving DecidableEq, Repr

/-- `OP`, bits 63:56 (R80). -/
def fieldOp (w : Command) : Byte := w.extractLsb' 56 8
/-- `X`, bits 55:48 (R80). -/
def fieldX (w : Command) : Byte := w.extractLsb' 48 8
/-- `B`, bits 47:32 (R80). -/
def fieldB (w : Command) : BitVec 16 := w.extractLsb' 32 16
/-- `A`, bits 31:0 (R80). -/
def fieldA (w : Command) : Word := w.extractLsb' 0 32

/-- The operand forms of the `form` column of 30_encoding.md R84. -/
def formNone (w : Command) (i : Instr) : Except Reject Instr :=
  if fieldX w = 0 ∧ fieldB w = 0 ∧ fieldA w = 0 then .ok i else .error .reservedField

/-- Form `A:s32` or `A:f32` (R81). -/
def formA (w : Command) (k : Word → Instr) : Except Reject Instr :=
  if fieldX w = 0 ∧ fieldB w = 0 then .ok (k (fieldA w)) else .error .reservedField

/-- Form `A:s32, B:u16` (R81). -/
def formAB (w : Command) (k : Word → BitVec 16 → Instr) : Except Reject Instr :=
  if fieldX w = 0 then .ok (k (fieldA w) (fieldB w)) else .error .reservedField

/-- Form `X:bool` (R81). -/
def formBool (w : Command) (k : Bool → Instr) : Except Reject Instr :=
  if fieldB w = 0 ∧ fieldA w = 0 then
    if fieldX w = 0 then .ok (k false)
    else if fieldX w = 1 then .ok (k true)
    else .error .boolOutOfRange
  else .error .reservedField

/-- Form `X:pid` (R81). -/
def formPid (w : Command) (k : BitVec 3 → Instr) : Except Reject Instr :=
  if fieldB w = 0 ∧ fieldA w = 0 then
    if fieldX w < 7 then .ok (k ((fieldX w).setWidth 3)) else .error .pidOutOfRange
  else .error .reservedField

/-- Form `X:pid, A:s32` (R81). -/
def formPidA (w : Command) (k : BitVec 3 → Word → Instr) : Except Reject Instr :=
  if fieldB w = 0 then
    if fieldX w < 7 then .ok (k ((fieldX w).setWidth 3) (fieldA w)) else .error .pidOutOfRange
  else .error .reservedField

/-- The decoder of the command port: what a word means when the host issues it. `OP` alone selects the command
(30_encoding.md R84, R91). -/
def decodeHost (w : Command) : Except Reject Instr :=
  match (fieldOp w).toNat with
  | 0x10 => formA w .resetPos
  | 0x11 => formA w .setInstr
  | 0x12 => formAB w .setInstrPark
  | 0x13 => formA w .setTarget
  | 0x14 => formAB w .setTargetPark
  | 0x15 => formBool w .setSync
  | 0x16 => formNone w .blDisable
  | 0x17 => formNone w .blEnable
  | 0x18 => formA w .setBlAmount
  | 0x19 => formNone w .markOrigin
  | 0x1A => formNone w .getMotor
  | 0x1B => formNone w .getInstr
  | 0x1C => formNone w .getTarget
  | 0x1D => formNone w .getBl
  | 0x1E => formNone w .getTDist
  | 0x1F => formNone w .getOtDist
  | 0x20 => formNone w .getRampDir
  | 0x30 => formA w .setFreq
  | 0x31 => formNone w .getFreq
  | 0x32 => formBool w .setEnable
  | 0x40 => formBool w .setSlew
  | 0x41 => formNone w .getMode
  | 0x42 => formNone w .getSlewRatio
  | 0x50 => formNone w .drvInit
  | 0x51 => formPidA w .valParam
  | 0x52 => formPidA w .setParam
  | 0x53 => formPid w .getParam
  | 0x54 => formNone w .getStatus
  | 0x55 => formNone w .calibrate
  | n => if 0xE0 ≤ n then .error .blockOpcode else .error .unlistedOpcode

/-- The numbering of the operations the block raises itself (30_encoding.md R85). The table's rows mask only `OP`, so
the other bits are not looked at, but for the operand of DRV_POWER, which the model reads from `X[0]`
(DESIGN CHOICE, log 6). -/
def decodeRaised (w : Command) : Except Reject Instr :=
  match (fieldOp w).toNat with
  | 0xE0 => .ok .drvMsTrack
  | 0xE1 => .ok .drvMsSlew
  | 0xE2 => .ok .drvDecayTrack
  | 0xE3 => .ok .drvDecaySlew
  | 0xE4 => .ok .drvUpdateStatus
  | 0xE5 => .ok (.drvPower ((fieldX w).getLsbD 0))
  | 0xF0 => .ok .evTickStd
  | 0xF1 => .ok .evTickFast
  | 0xF2 => .ok .evModePoll
  | 0xF3 => .ok .evStatusPoll
  | _ => .error .unlistedOpcode

/-- Whether the opcode lies in the block's own range, 0xE0..0xFF (30_encoding.md R85). -/
def isBlockOpcode (w : Command) : Bool := 0xE0 ≤ (fieldOp w).toNat

/-- What a word of the opcode table stands for: a host command below 0xE0, an operation of the block's own above. -/
def decodeTable (w : Command) : Except Reject Instr :=
  if isBlockOpcode w then decodeRaised w else decodeHost w

/-- The 64-bit word whose bytes are `bs`, most significant byte first (20_memory.md R62); exactly eight bytes. -/
def commandOfBytes : List Byte → Option Command
  | [b7, b6, b5, b4, b3, b2, b1, b0] => some (b7 ++ b6 ++ b5 ++ b4 ++ b3 ++ b2 ++ b1 ++ b0)
  | _ => none

/-- The bytes of a command word on a serialising port, most significant byte first (20_memory.md R62). -/
def bytesOfCommand (w : Command) : List Byte :=
  [w.extractLsb' 56 8, w.extractLsb' 48 8, w.extractLsb' 40 8, w.extractLsb' 32 8,
   w.extractLsb' 24 8, w.extractLsb' 16 8, w.extractLsb' 8 8, w.extractLsb' 0 8]

/-- The decoder on any bytes: one 8-byte word and no other length (30_encoding.md R80, R91). -/
def decodeBytes (bs : List Byte) : Except Reject Instr :=
  match commandOfBytes bs with
  | some w => decodeTable w
  | none => .error .badLength

/-- `{OP, X, B, A}` (30_encoding.md R80, R89). -/
def mkCommand (op x : Byte) (b : BitVec 16) (a : Word) : Command := op ++ x ++ b ++ a

/-- `X:bool` as a field (R81). -/
def boolField (on : Bool) : Byte := if on then 1 else 0

/-- The opcode of an operation (30_encoding.md R84, R85). -/
def opcode : Instr → Byte
  | .resetPos _ => 0x10
  | .setInstr _ => 0x11
  | .setInstrPark _ _ => 0x12
  | .setTarget _ => 0x13
  | .setTargetPark _ _ => 0x14
  | .setSync _ => 0x15
  | .blDisable => 0x16
  | .blEnable => 0x17
  | .setBlAmount _ => 0x18
  | .markOrigin => 0x19
  | .getMotor => 0x1A
  | .getInstr => 0x1B
  | .getTarget => 0x1C
  | .getBl => 0x1D
  | .getTDist => 0x1E
  | .getOtDist => 0x1F
  | .getRampDir => 0x20
  | .setFreq _ => 0x30
  | .getFreq => 0x31
  | .setEnable _ => 0x32
  | .setSlew _ => 0x40
  | .getMode => 0x41
  | .getSlewRatio => 0x42
  | .drvInit => 0x50
  | .valParam _ _ => 0x51
  | .setParam _ _ => 0x52
  | .getParam _ => 0x53
  | .getStatus => 0x54
  | .calibrate => 0x55
  | .drvMsTrack => 0xE0
  | .drvMsSlew => 0xE1
  | .drvDecayTrack => 0xE2
  | .drvDecaySlew => 0xE3
  | .drvUpdateStatus => 0xE4
  | .drvPower _ => 0xE5
  | .evTickStd => 0xF0
  | .evTickFast => 0xF1
  | .evModePoll => 0xF2
  | .evStatusPoll => 0xF3

/-- The word of an instruction, with unused fields zero (30_encoding.md R80, R81, R84, R89). -/
def encode (i : Instr) : Command :=
  match i with
  | .resetPos v => mkCommand (opcode i) 0 0 v
  | .setInstr v => mkCommand (opcode i) 0 0 v
  | .setInstrPark v m => mkCommand (opcode i) 0 m v
  | .setTarget v => mkCommand (opcode i) 0 0 v
  | .setTargetPark v m => mkCommand (opcode i) 0 m v
  | .setSync on => mkCommand (opcode i) (boolField on) 0 0
  | .setBlAmount a => mkCommand (opcode i) 0 0 a
  | .setFreq fbits => mkCommand (opcode i) 0 0 fbits
  | .setEnable on => mkCommand (opcode i) (boolField on) 0 0
  | .setSlew on => mkCommand (opcode i) (boolField on) 0 0
  | .valParam p v => mkCommand (opcode i) (p.setWidth 8) 0 v
  | .setParam p v => mkCommand (opcode i) (p.setWidth 8) 0 v
  | .getParam p => mkCommand (opcode i) (p.setWidth 8) 0 0
  | .drvPower on => mkCommand (opcode i) (boolField on) 0 0
  | .blDisable => mkCommand (opcode i) 0 0 0
  | .blEnable => mkCommand (opcode i) 0 0 0
  | .markOrigin => mkCommand (opcode i) 0 0 0
  | .getMotor => mkCommand (opcode i) 0 0 0
  | .getInstr => mkCommand (opcode i) 0 0 0
  | .getTarget => mkCommand (opcode i) 0 0 0
  | .getBl => mkCommand (opcode i) 0 0 0
  | .getTDist => mkCommand (opcode i) 0 0 0
  | .getOtDist => mkCommand (opcode i) 0 0 0
  | .getRampDir => mkCommand (opcode i) 0 0 0
  | .getFreq => mkCommand (opcode i) 0 0 0
  | .getMode => mkCommand (opcode i) 0 0 0
  | .getSlewRatio => mkCommand (opcode i) 0 0 0
  | .drvInit => mkCommand (opcode i) 0 0 0
  | .getStatus => mkCommand (opcode i) 0 0 0
  | .calibrate => mkCommand (opcode i) 0 0 0
  | .drvMsTrack => mkCommand (opcode i) 0 0 0
  | .drvMsSlew => mkCommand (opcode i) 0 0 0
  | .drvDecayTrack => mkCommand (opcode i) 0 0 0
  | .drvDecaySlew => mkCommand (opcode i) 0 0 0
  | .drvUpdateStatus => mkCommand (opcode i) 0 0 0
  | .evTickStd => mkCommand (opcode i) 0 0 0
  | .evTickFast => mkCommand (opcode i) 0 0 0
  | .evModePoll => mkCommand (opcode i) 0 0 0
  | .evStatusPoll => mkCommand (opcode i) 0 0 0

/-- The instruction the decoder reads from a table word: the low `nbits` bits of `w`, every bit above zero. The word is
laid out as the port serialises it, most significant byte first (20_memory.md R62), and given to `decodeBytes`. -/
def decodeTableWord (nbits w : Nat) : Option Instr :=
  (decodeBytes (bytesOfCommand (BitVec.ofNat 64 (w % 2 ^ nbits)))).toOption

end Sys2Proof
end

