-- ==== Sys2Proof/Config.lean ====
section
/-! DEFINITION. What one implementation fixes: the parameters of 00_scope.md R6 as one structure of plain data, the
spec's general-knowledge defaults, the reference parameters of 95_test_vectors.md, and the free values.
Every instruction's meaning takes the parameters as an argument through `State.params` (log 1). -/

namespace Sys2Proof

/-- A pin level. -/
inductive Level where
  | low
  | high
deriving DecidableEq, Repr, Inhabited

/-- The other level ("not EN_ACTIVE_LEVEL", 43_driver.md R218). -/
def Level.other : Level → Level
  | .low => .high
  | .high => .low

/-- The driver models of parameter `MODEL` (00_scope.md R6). -/
inductive Model where
  | genericA4988
  | genericDrv8825
  | genericTable
  | tmcSpiA
  | tmcSpiB
  | tmcUart
deriving DecidableEq, Repr

/-- The model classes of 10_state.md R42. -/
inductive ModelClass where
  | generic
  | tmcSpi
  | tmcUart
deriving DecidableEq, Repr

/-- `class(model)` (10_state.md R42). -/
def Model.cls : Model → ModelClass
  | .genericA4988 => .generic
  | .genericDrv8825 => .generic
  | .genericTable => .generic
  | .tmcSpiA => .tmcSpi
  | .tmcSpiB => .tmcSpi
  | .tmcUart => .tmcUart

/-- Parameter `WAVEFORM` (00_scope.md R6, 41_sequencer.md R151). -/
inductive Waveform where
  | pulse
  | square
deriving DecidableEq, Repr

/-- The driver registers the block names (30_encoding.md R98). -/
inductive TmcReg where
  | gconf
  | iholdIrun
  | chopconf
  | pwmconf
  | coolconf
  | drvStatus
deriving DecidableEq, Repr

/-- Parameter `REG_ADDR` (30_encoding.md R98): one address for each register. -/
structure RegAddrs where
  gconf : Nat
  iholdIrun : Nat
  coolconf : Nat
  chopconf : Nat
  drvStatus : Nat
  pwmconf : Nat
deriving DecidableEq, Repr

/-- `REG_ADDR[reg]`. -/
def RegAddrs.addr (t : RegAddrs) : TmcReg → Nat
  | .gconf => t.gconf
  | .iholdIrun => t.iholdIrun
  | .coolconf => t.coolconf
  | .chopconf => t.chopconf
  | .drvStatus => t.drvStatus
  | .pwmconf => t.pwmconf

/-- The defaults of `REG_ADDR` for TMC_SPI_A and TMC_SPI_B (30_encoding.md R98, general knowledge G3, log 23). -/
def RegAddrs.spiDefault : RegAddrs :=
  { gconf := 0x00, iholdIrun := 0x10, coolconf := 0x6D, chopconf := 0x6C, drvStatus := 0x6F, pwmconf := 0x70 }

/-- The defaults of `REG_ADDR` for TMC_UART (30_encoding.md R98, general knowledge G3, log 23). -/
def RegAddrs.uartDefault : RegAddrs :=
  { RegAddrs.spiDefault with coolconf := 0x42 }

/-- Parameter `GENERIC_CODE_TABLE` (43_driver.md R194): one entry for each count of `MS_SET`; an entry is 0..7 or
UNSUPPORTED = -1, and any other integer is outside its domain. -/
structure CodeTable where
  c1 : Int
  c2 : Int
  c4 : Int
  c8 : Int
  c16 : Int
  c32 : Int
  c64 : Int
  c128 : Int
  c256 : Int
deriving DecidableEq, Repr

/-- Parameter `DECAY_LEVEL` (00_scope.md R6): the DECAY pin level of each generic decay mode. -/
structure DecayLevels where
  mixed : Level
  fast : Level
  slow : Level
deriving DecidableEq, Repr

/-- One byte of a UART datagram (30_encoding.md R96): a constant, the device address `UART_ADDR`, the register's address
byte, byte `k` of the data word (0 the least significant), or byte `k` of the CRC over all bytes before it. -/
inductive UartField where
  | const (b : Byte)
  | device
  | register
  | data (k : Nat)
  | crc (k : Nat)
deriving DecidableEq, Repr

/-- The CRC of a datagram (30_encoding.md R97), by its width in bits, polynomial, initial value, bit order, and what is
done to the result. -/
structure UartCrc where
  width : Nat
  poly : Nat
  init : Nat
  lsbFirst : Bool
  reflectOut : Bool
  xorOut : Nat
deriving DecidableEq, Repr

/-- Parameter `UART_FRAMING`, "UART datagram layout and CRC" (00_scope.md R6, 30_encoding.md R96, R97, log 15): the bytes of
a write, a read request and a read reply, in order, and the CRC. -/
structure UartFraming where
  writeLayout : List UartField
  requestLayout : List UartField
  replyLayout : List UartField
  crc : UartCrc
deriving DecidableEq, Repr

/-- The default CRC (30_encoding.md R97, log 23): CRC-8, polynomial 0x07, initial value 0, each byte least significant bit
first. -/
def UartCrc.trinamic : UartCrc :=
  { width := 8, poly := 0x07, init := 0, lsbFirst := true, reflectOut := false, xorOut := 0 }

/-- The default of `UART_FRAMING`: the Trinamic datagrams (30_encoding.md R96, R97, log 23). -/
def UartFraming.trinamic : UartFraming :=
  { writeLayout := [.const 0x05, .device, .register, .data 3, .data 2, .data 1, .data 0, .crc 0]
    requestLayout := [.const 0x05, .device, .register, .crc 0]
    replyLayout := [.const 0x05, .const 0xFF, .register, .data 3, .data 2, .data 1, .data 0, .crc 0]
    crc := UartCrc.trinamic }

/-- Parameter `UART_DRVSTATUS_LAYOUT` (44_tmc_codec.md R246, R247): the bit of each status flag, and the bits of
CS_ACTUAL. -/
structure UartStatusLayout where
  otpw : Nat
  ot : Nat
  s2ga : Nat
  s2gb : Nat
  ola : Nat
  olb : Nat
  stst : Nat
  csLow : Nat
  csWidth : Nat
deriving DecidableEq, Repr

/-- The default layout of 44_tmc_codec.md R247 (log 23). -/
def UartStatusLayout.tmc22xx : UartStatusLayout :=
  { otpw := 0, ot := 1, s2ga := 2, s2gb := 3, ola := 6, olb := 7, stst := 31, csLow := 16, csWidth := 5 }

/-- A rational number of ohms, `num / den` (parameter `RSENSE`, log 12): every real resistance has the current register
values of some rational one (Laws/Sense.lean). -/
structure Ratio where
  num : Int
  den : Nat
deriving DecidableEq, Repr

/-- The seven driver configuration registers (10_state.md R43), each an `s32` pattern. -/
structure DriverConfig where
  microsteps : Word
  microstepsSlewing : Word
  currentHold : Word
  currentRun : Word
  currentGoto : Word
  decay : Word
  decaySlewing : Word
deriving DecidableEq, Repr

/-- The parameters of 00_scope.md R6. Integer parameters with a bounded domain are held as integers, so that a value
outside the domain can be written down and raises `F_UNMODELLED` (60_exceptions.md R285, log 21). -/
structure Params where
  model : Model
  genericCodeTable : CodeTable
  modeSwitchSupported : Bool
  kSub : Int
  periodMinSub : Int
  waveform : Waveform
  rsense : Ratio
  iMaxMa : Int
  iholdDelay : Int
  chopconfBase : Word
  pwmconfValue : Word
  coolconfValue : Word
  regAddr : RegAddrs
  uartAddr : BitVec 2
  uartGconfBase : Word
  uartSpreadPolarity : Bool
  uartDrvStatus : UartStatusLayout
  uartFraming : UartFraming
  uartSingleWire : Bool
  dirFwdLevel : Level
  enActiveLevel : Level
  decayLevels : DecayLevels
  hasMPins : Bool
  hasDecayPin : Bool
  hasFaultPin : Bool
  faultActiveLevel : Level
  cfgInit : DriverConfig
deriving DecidableEq, Repr

namespace Config

/-- `PERIOD_MAX_US` (00_scope.md R6, 90_conflicts.md C2). -/
def periodMaxUs : Nat := 130000000

/-- `VFS` in millivolts: 0.325 V (00_scope.md R6). -/
def vfsMillivolts : Nat := 325

/-- OFF is -1, the pattern 0xFFFFFFFF (30_encoding.md R86). -/
def off : Word := 0xFFFFFFFF#32

/-- Decay codes of 30_encoding.md R86. -/
def decayMixed : Word := 0#32
/-- FAST = 1 (30_encoding.md R86). -/
def decayFast : Word := 1#32
/-- SLOW = 2 (30_encoding.md R86). -/
def decaySlow : Word := 2#32
/-- SPREAD_CYCLE = 3 (30_encoding.md R86). -/
def decaySpreadCycle : Word := 3#32
/-- STEALTH_CHOP = 4 (30_encoding.md R86). -/
def decayStealthChop : Word := 4#32

/-- `CFG_INIT` of the reference parameters (95_test_vectors.md, log 25). -/
def referenceCfgInit : DriverConfig :=
  { microsteps := 16#32, microstepsSlewing := off, currentHold := off, currentRun := 1000#32, currentGoto := off,
    decay := decaySpreadCycle, decaySlewing := off }

/-- The reference parameters of 95_test_vectors.md ("test choices, not claims about the hardware"); the fields that
table leaves out take the spec's defaults, or a value of no effect under TMC_SPI_A (DESIGN CHOICE, log 1). -/
def reference : Params :=
  { model := .tmcSpiA
    genericCodeTable := { c1 := 0, c2 := 1, c4 := 2, c8 := 3, c16 := 4, c32 := 5, c64 := -1, c128 := -1, c256 := -1 }
    modeSwitchSupported := true
    kSub := 16
    periodMinSub := 1
    waveform := .pulse
    rsense := { num := 1625, den := 10000 }
    iMaxMa := 2000
    iholdDelay := 8
    chopconfBase := 0x10000053#32
    pwmconfValue := 0x00050480#32
    coolconfValue := 0x01000000#32
    regAddr := RegAddrs.spiDefault
    uartAddr := 0#2
    uartGconfBase := 0x000000C1#32
    uartSpreadPolarity := true
    uartDrvStatus := UartStatusLayout.tmc22xx
    uartFraming := UartFraming.trinamic
    uartSingleWire := false
    dirFwdLevel := .high
    enActiveLevel := .low
    decayLevels := { mixed := .high, fast := .high, slow := .low }
    hasMPins := true
    hasDecayPin := true
    hasFaultPin := false
    faultActiveLevel := .low
    cfgInit := referenceCfgInit }

/-- FREE VALUE: the 40-bit SPI reply the chip oracle gives when no reply is queued, for each reply served
(45_bus.md R266, log 4). -/
opaque freeSpiReply : Nat → BitVec 40

/-- FREE VALUE: the bytes, or nothing, that the chip oracle gives to a UART read request when no reply is queued
(45_bus.md R266, log 4). -/
opaque freeUartReply : Nat → Option (List Byte)

/-- FREE VALUE: the level of the FAULT input when no level is queued (45_bus.md R266, log 4). -/
opaque freeFaultLevel : Nat → Level

/-- FREE VALUE: the DECAY pin level for a decay code outside {MIXED, FAST, SLOW}, which `DECAY_LEVEL` does not map
(00_scope.md R6, log 14). -/
opaque freeDecayLevel : Word → Level

end Config

end Sys2Proof
end

