-- ==== Sys2Proof/Machine/State.lean ====
section
/-! DEFINITION. The state of one block instance (10_state.md), as plain data; the reasons a step can stop; and the state
after reset (10_state.md R56, 70_reset_and_hazards.md R310). -/

namespace Sys2Proof.Machine

open Sys2Proof

/-- The states of the mode-control machine (00_scope.md R13, 10_state.md R39), in the order of their codes (R40). -/
inductive ModeState where
  | tracking
  | slewing
  | slewingRequest
  | slewingPause
  | slewingReady
  | trackingReady
deriving DecidableEq, Repr

/-- The tick handler that the timer invokes (10_state.md R36). -/
inductive Handler where
  | standard
  | fast
deriving DecidableEq, Repr

/-- The latched travel direction (10_state.md R34). -/
inductive Dir where
  | none
  | fwd
  | rev
deriving DecidableEq, Repr

/-- A sign in {-1, 0, +1}: the type of `dirLatch` (10_state.md R33) and of `sign(v)` (00_scope.md R8). -/
inductive Sign where
  | neg
  | zero
  | pos
deriving DecidableEq, Repr

/-- The result codes of a host command (60_exceptions.md R280). -/
inductive Result where
  | ok
  | unsupported
  | invalid
  | busy
  | illegal
  | unpaired
  | refused
  | fault
deriving DecidableEq, Repr

/-- The model faults (60_exceptions.md R285). -/
inductive ModelFault where
  | overflow
  | gating
  | unmodelled
deriving DecidableEq, Repr

/-- The set of sticky model faults (10_state.md R49): `F_OVERFLOW`, `F_GATING`, `F_UNMODELLED`. -/
structure Faults where
  overflow : Bool
  gating : Bool
  unmodelled : Bool
deriving DecidableEq, Repr

/-- One coil output of the status structure (10_state.md R46). -/
structure OutputStatus where
  shortToGround : Bool
  openLoad : Bool
deriving DecidableEq, Repr

/-- The driver fault-status structure (10_state.md R46). -/
structure DriverStatus where
  active : Bool
  outputA : OutputStatus
  outputB : OutputStatus
  overTemperatureWarning : Bool
  overTemperature : Bool
  standstill : Bool
  fault : Bool
deriving DecidableEq, Repr

/-- One entry of the shadow cache: `shadow[r]` and `shadowValid[r]` (10_state.md R45). -/
structure Shadow where
  value : Word
  valid : Bool
deriving DecidableEq, Repr

/-- The shadow cache (10_state.md R45). DRVSTATUS has no shadow: it is never written (45_bus.md R269). -/
structure Shadows where
  gconf : Shadow
  iholdIrun : Shadow
  chopconf : Shadow
  pwmconf : Shadow
  coolconf : Shadow
deriving DecidableEq, Repr

/-- The output pins that emit PIN events (10_state.md R48). -/
inductive Pin where
  | dir
  | en
  | m0
  | m1
  | m2
  | decay
deriving DecidableEq, Repr

/-- The levels of the output pins; `none` is the spec's "unspecified" level (10_state.md R56, 43_driver.md R210,
log 20). The DIR pin's level follows `dir` (R34) and is derived. -/
structure Pins where
  en : Level
  m0 : Option Level
  m1 : Option Level
  m2 : Option Level
  decay : Option Level
deriving DecidableEq, Repr

/-- One bus transaction: the outgoing frame and the reply that the chip oracle gave (10_state.md R50, 45_bus.md R261).
A UART reply of `none` is the rule's `NONE`. -/
inductive Transaction where
  | spi (out reply : BitVec 40)
  | uart (out : List Byte) (reply : Option (List Byte))
deriving DecidableEq, Repr

/-- The observable events (10_state.md R50). -/
inductive Event where
  | pulse (dir : Dir)
  | pin (p : Pin) (level : Level)
  | txn (t : Transaction)
  | resp (op : Byte) (result : Result) (value : Word)
deriving DecidableEq, Repr

/-- What the chip oracle C will answer (45_bus.md R266): queued replies, and the count of replies served so far. Where
a queue is empty the reply is a free value of Config applied to the count (log 4). The model's own field. -/
structure Oracle where
  spi : List (BitVec 40)
  uart : List (Option (List Byte))
  faultPin : List Level
  served : Nat
deriving DecidableEq, Repr

/-- One move of the schedule (00_scope.md R10, 60_exceptions.md R291): the host issues a word, the block raises an
operation of its own by its number (30_encoding.md R85), or the timer ticks (R90's TICK). The model's own (log 2). -/
inductive Slot where
  | host (w : Command)
  | raised (w : Command)
  | tick
deriving DecidableEq, Repr

/-- The whole state of one block instance. -/
structure State where
  /-- The parameters of the instance (00_scope.md R6); no operation writes them. -/
  params : Params
  /-- 10_state.md R22. -/
  motorSteps : Word
  /-- 10_state.md R23. -/
  targetSteps : Word
  /-- 10_state.md R24. -/
  indexSteps : Word
  /-- 10_state.md R25. -/
  backlashSteps : Word
  /-- 10_state.md R26. -/
  backlashAmountSteps : Word
  /-- 10_state.md R27. -/
  originSteps : Word
  /-- 10_state.md R28: a BLDISABLE without its BLENABLE is open. -/
  backlashDisabled : Bool
  /-- 10_state.md R28. -/
  savedBacklash : Word
  /-- 10_state.md R30: the binary32 pattern of the accepted frequency. -/
  freqBits : Word
  /-- 10_state.md R31. -/
  timerRunning : Bool
  /-- 10_state.md R31: the tick period in timer sub-units. -/
  periodSub : Nat
  /-- 10_state.md R32: what a tick adds to `targetSteps`. -/
  step : Word
  /-- 10_state.md R33: the sign of the requested frequency. -/
  dirLatch : Sign
  /-- 10_state.md R33. -/
  rearm : Bool
  /-- 10_state.md R33. -/
  pendingStep : Word
  /-- 10_state.md R34. -/
  dir : Dir
  /-- 10_state.md R35. -/
  synchronized : Bool
  /-- 10_state.md R36. -/
  handler : Handler
  /-- 10_state.md R37. -/
  enabled : Bool
  /-- 10_state.md R38. -/
  graceTick : Bool
  /-- 10_state.md R39. -/
  modeState : ModeState
  /-- 10_state.md R41. -/
  slewHint : Bool
  /-- 10_state.md R41. -/
  modeReq : Bool
  /-- 10_state.md R43. -/
  cfg : DriverConfig
  /-- 10_state.md R44. -/
  driverReady : Bool
  /-- 10_state.md R45. -/
  shadows : Shadows
  /-- 10_state.md R46. -/
  status : DriverStatus
  /-- 10_state.md R47. -/
  lastDrvStatus : Word
  /-- 10_state.md R47. -/
  lastSpiStatus : Byte
  /-- 10_state.md R48. -/
  pins : Pins
  /-- 10_state.md R49. -/
  faults : Faults
  /-- 10_state.md R50, oldest first. -/
  history : List Event
  /-- The model's own: which agent moves next (log 2). -/
  schedule : List Slot
  /-- The model's own: how many ticks run at each preemption point to come (20_memory.md R67, log 3). -/
  preempt : List Nat
  /-- The model's own: the chip's answers (log 4). -/
  oracle : Oracle
deriving DecidableEq, Repr

/-- Why a step would stop with a fault. There is no such reason: the block has no trap (60_exceptions.md R292), and its
model faults are sticky flags after which it keeps running (R286), so they are next states (log 18). An empty type says
so: nobody raises it, which is safe. -/
inductive Fault
deriving DecidableEq, Repr

/-- Why a step has no meaning. -/
inductive Refusal where
  /-- Raised by an arm of `exec` for an instruction without a meaning yet; no arm does. Safe: nothing follows from a
  stopped run. -/
  | notModelled (mnemonic : String)
  /-- Raised by `step` alone, when the schedule lets the block raise a word that numbers no operation of the block
  (30_encoding.md R85): no such event exists. Safe: nothing follows from a stopped run (log 29). -/
  | notRaisable
deriving DecidableEq, Repr

/-- Every field of the status structure false (10_state.md R56). -/
def DriverStatus.clear : DriverStatus :=
  { active := false, outputA := { shortToGround := false, openLoad := false },
    outputB := { shortToGround := false, openLoad := false }, overTemperatureWarning := false,
    overTemperature := false, standstill := false, fault := false }

/-- The shadow of a register after reset: 0, not valid (10_state.md R56). -/
def Shadow.invalid : Shadow := { value := 0#32, valid := false }

/-- The shadow cache after reset (10_state.md R56, 20_memory.md R76). -/
def Shadows.invalid : Shadows :=
  { gconf := Shadow.invalid, iholdIrun := Shadow.invalid, chopconf := Shadow.invalid, pwmconf := Shadow.invalid,
    coolconf := Shadow.invalid }

/-- The state after reset of a block with parameters `p` (10_state.md R56, 70_reset_and_hazards.md R310). -/
def State.resetWith (p : Params) : State :=
  { params := p
    motorSteps := 0#32
    targetSteps := 0#32
    indexSteps := 0#32
    backlashSteps := 0#32
    backlashAmountSteps := 0#32
    originSteps := 0#32
    backlashDisabled := false
    savedBacklash := 0#32
    freqBits := 0#32
    timerRunning := false
    periodSub := 0
    step := 0#32
    dirLatch := .zero
    rearm := false
    pendingStep := 0#32
    dir := .none
    synchronized := false
    handler := .standard
    enabled := false
    graceTick := false
    modeState := .tracking
    slewHint := false
    modeReq := false
    cfg := p.cfgInit
    driverReady := false
    shadows := Shadows.invalid
    status := DriverStatus.clear
    lastDrvStatus := 0#32
    lastSpiStatus := 0#8
    pins := { en := p.enActiveLevel.other, m0 := none, m1 := none, m2 := none, decay := none }
    faults := { overflow := false, gating := false, unmodelled := false }
    history := [.pin .en p.enActiveLevel.other]
    schedule := []
    preempt := []
    oracle := { spi := [], uart := [], faultPin := [], served := 0 } }

/-- The state after reset, with the spec's reference parameters (95_test_vectors.md, log 1). -/
def State.reset : State := State.resetWith Config.reference

end Sys2Proof.Machine
end

