-- ==== Sys2Proof/Machine/Operands.lean ====
section
/-! DEFINITION. Operands and the arithmetic on them: signed values and the range check `chk` (00_scope.md R8, R9), the
binary32 frequency (41_sequencer.md R140), park rounding (40_position.md R128), parameter ids (30_encoding.md R86), the
microstep table, `homeSteps`, and the current formula (43_driver.md R192 to R197). -/

namespace Sys2Proof.Machine

open Sys2Proof

/-- `v` lies in the range of an `s32` counter (00_scope.md R9 with `POS_BITS = 32`). -/
def fitsS32 (v : Int) : Bool := decide (-2147483648 ≤ v) && decide (v ≤ 2147483647)

/-- The two's-complement pattern of `v` (30_encoding.md R83). -/
def wordOfInt (v : Int) : Word := BitVec.ofInt 32 v

/-- `chk(v)`: the pattern of a value that fits, or nothing when it overflows (00_scope.md R9). -/
def chk (v : Int) : Option Word := if fitsS32 v then some (wordOfInt v) else none

/-- `sign(v)` (00_scope.md R8). -/
def signOf (v : Int) : Sign := if v < 0 then .neg else if v = 0 then .zero else .pos

/-- The integer of a sign. -/
def Sign.toInt : Sign → Int
  | .neg => -1
  | .zero => 0
  | .pos => 1

/-- `roundHalfAway(n / d)` for `d > 0`: the nearest integer, a tie going away from zero (00_scope.md R8). -/
def roundHalfAway (n : Int) (d : Nat) : Int :=
  if 0 ≤ n then (((2 * n.natAbs + d) / (2 * d) : Nat) : Int) else -(((2 * n.natAbs + d) / (2 * d) : Nat) : Int)

/-- `clamp(v, lo, hi)` (00_scope.md R8). -/
def clamp (v lo hi : Int) : Int := if v < lo then lo else if hi < v then hi else v

/-- `v mod0 m` (00_scope.md R8). -/
def mod0 (v m : Int) : Bool := v % m == 0

/-- `parkRound(raw, m)` (40_position.md R128). -/
def parkRound (raw : Int) (m : Nat) : Int := roundHalfAway raw (4 * m) * (4 * (m : Int)) - 2 * (m : Int)

/-- The biased exponent of a binary32 pattern. -/
def f32Exponent (f : Word) : Nat := (f.extractLsb' 23 8).toNat

/-- The fraction field of a binary32 pattern. -/
def f32Fraction (f : Word) : Nat := (f.extractLsb' 0 23).toNat

/-- `F32(f)` is finite: not NaN and not an infinity (00_scope.md R8). -/
def f32Finite (f : Word) : Bool := f32Exponent f != 255

/-- The significand of a finite binary32 pattern, as an integer multiple of the unit of `f32Denominator`. -/
def f32Significand (f : Word) : Nat :=
  if f32Exponent f = 0 then f32Fraction f else f32Fraction f + 2 ^ 23

/-- `abs(F32(f))` of a finite pattern is `f32Numerator f / f32Denominator f`, exactly (00_scope.md R8). -/
def f32Numerator (f : Word) : Nat := f32Significand f * 2 ^ (f32Exponent f - 150)

/-- See `f32Numerator`: the denominator, a power of two. -/
def f32Denominator (f : Word) : Nat := 2 ^ (150 - max (f32Exponent f) 1)

/-- `sign(F32(f))` of a finite nonzero pattern. -/
def f32Sign (f : Word) : Sign := if f.getLsbD 31 then .neg else .pos

/-- The outcome of `classify` (41_sequencer.md R140): STOP, or `RUN(d, p_us)` with `p_us = pNum / pDen` exactly. -/
inductive Freq where
  | stop
  | run (d : Sign) (pNum pDen : Nat)
deriving DecidableEq, Repr

/-- `classify(fbits)` (41_sequencer.md R140): non-finite, zero and too slow frequencies stop. -/
def classify (f : Word) : Freq :=
  if !f32Finite f then .stop
  else if f32Significand f = 0 then .stop
  else if Config.periodMaxUs * f32Numerator f < 1000000 * f32Denominator f then .stop
  else .run (f32Sign f) (1000000 * f32Denominator f) (f32Numerator f)

/-- The requested direction of a classification: `newDir` of ARM (41_sequencer.md R143). -/
def Freq.dir : Freq → Sign
  | .stop => .zero
  | .run d _ _ => d

/-- Whether a classification lets the timer run (41_sequencer.md R143). -/
def Freq.runs : Freq → Bool
  | .stop => false
  | .run _ _ _ => true

/-- `half` of ARM (41_sequencer.md R143, R151). -/
def waveformHalf : Waveform → Int
  | .pulse => 1
  | .square => 2

/-- `max(trunc(p_us * mult * K_SUB / half), PERIOD_MIN_SUB)` (41_sequencer.md R143). -/
def periodOf (p : Params) (pNum pDen : Nat) (mult : Int) : Nat :=
  (max (((pNum : Int) * mult * p.kSub).tdiv ((pDen : Int) * waveformHalf p.waveform)) p.periodMinSub).toNat

/-- The timer parameters are in their domain (60_exceptions.md R285). -/
def timerParamsOk (p : Params) : Bool := decide (1 ≤ p.kSub) && decide (1 ≤ p.periodMinSub)

/-- The driver parameter ids (30_encoding.md R86). -/
inductive ParamId where
  | microsteps
  | microstepsSlewing
  | currentHold
  | currentRun
  | currentGoto
  | decay
  | decaySlewing
deriving DecidableEq, Repr

/-- The id that a field of form `X:pid` names (30_encoding.md R86); 7 names none (R81). -/
def paramOfField (p : BitVec 3) : Option ParamId :=
  match p.toNat with
  | 0 => some .microsteps
  | 1 => some .microstepsSlewing
  | 2 => some .currentHold
  | 3 => some .currentRun
  | 4 => some .currentGoto
  | 5 => some .decay
  | 6 => some .decaySlewing
  | _ => none

/-- `cfg[p]` (10_state.md R43). -/
def cfgGet (c : DriverConfig) : ParamId → Word
  | .microsteps => c.microsteps
  | .microstepsSlewing => c.microstepsSlewing
  | .currentHold => c.currentHold
  | .currentRun => c.currentRun
  | .currentGoto => c.currentGoto
  | .decay => c.decay
  | .decaySlewing => c.decaySlewing

/-- `cfg with cfg[p] = v` (43_driver.md R199). -/
def cfgSet (c : DriverConfig) (p : ParamId) (v : Word) : DriverConfig :=
  match p with
  | .microsteps => { c with microsteps := v }
  | .microstepsSlewing => { c with microstepsSlewing := v }
  | .currentHold => { c with currentHold := v }
  | .currentRun => { c with currentRun := v }
  | .currentGoto => { c with currentGoto := v }
  | .decay => { c with decay := v }
  | .decaySlewing => { c with decaySlewing := v }

/-- `v ∈ MS_SET` (43_driver.md R192). -/
def inMsSet (v : Int) : Bool := [1, 2, 4, 8, 16, 32, 64, 128, 256].contains v

/-- `UNSUPPORTED` as a microstep code (30_encoding.md R86). -/
def unsupportedCode : Int := -1

/-- The entry of `GENERIC_CODE_TABLE` for a count (43_driver.md R194). -/
def codeTableEntry (t : CodeTable) (m : Int) : Int :=
  if m = 1 then t.c1 else if m = 2 then t.c2 else if m = 4 then t.c4 else if m = 8 then t.c8
  else if m = 16 then t.c16 else if m = 32 then t.c32 else if m = 64 then t.c64 else if m = 128 then t.c128
  else if m = 256 then t.c256 else unsupportedCode

/-- `mres(m) = 8 - log2(m)` (43_driver.md R193, general knowledge G1, log 23). -/
def mresCode (m : Int) : Int := 8 - (Nat.log2 m.toNat : Int)

/-- The A4988 column of 43_driver.md R194 (general knowledge G2, log 23). -/
def a4988Code (m : Int) : Int :=
  if m = 1 then 0 else if m = 2 then 1 else if m = 4 then 2 else if m = 8 then 3 else if m = 16 then 7
  else unsupportedCode

/-- The DRV8825 column of 43_driver.md R194 (general knowledge G2, log 23). -/
def drv8825Code (m : Int) : Int :=
  if m = 1 then 0 else if m = 2 then 1 else if m = 4 then 2 else if m = 8 then 3 else if m = 16 then 4
  else if m = 32 then 5 else unsupportedCode

/-- `subdivisionsToCode(model, m)` (43_driver.md R194): the code, or UNSUPPORTED; any count outside `MS_SET` is
UNSUPPORTED. For GENERIC_TABLE it is the table's entry, whatever that is; `codeOk` says whether it is in its domain. -/
def subdivisionsToCode (p : Params) (m : Int) : Int :=
  if !inMsSet m then unsupportedCode
  else
    match p.model with
    | .genericA4988 => a4988Code m
    | .genericDrv8825 => drv8825Code m
    | .genericTable => codeTableEntry p.genericCodeTable m
    | .tmcSpiA => mresCode m
    | .tmcSpiB => mresCode m
    | .tmcUart => mresCode m

/-- The entry used for `m` is in the domain of `GENERIC_CODE_TABLE`, 0..7 or UNSUPPORTED; the other models' tables always
are (43_driver.md R194, 60_exceptions.md R285). -/
def codeOk (p : Params) (m : Int) : Bool :=
  match p.model with
  | .genericTable => decide (-1 ≤ subdivisionsToCode p m) && decide (subdivisionsToCode p m ≤ 7)
  | .genericA4988 => true
  | .genericDrv8825 => true
  | .tmcSpiA => true
  | .tmcSpiB => true
  | .tmcUart => true

/-- `homeSteps` (43_driver.md R196). The quotient is exact for a validated configuration; for any other it is rounded
toward zero, and no reachable state asks for it (log 13). -/
def homeStepsOf (c : DriverConfig) : Int :=
  if c.microstepsSlewing = Config.off then 1 else c.microsteps.toInt.tdiv c.microstepsSlewing.toInt

/-- `RSENSE > 0` (60_exceptions.md R285). -/
def rsenseOk (r : Ratio) : Bool := decide (0 < r.num) && decide (0 < r.den)

/-- `IHOLDDELAY ∈ 0..15` (44_tmc_codec.md R233, 60_exceptions.md R285). -/
def iholdDelayOk (v : Int) : Bool := decide (0 ≤ v) && decide (v ≤ 15)

/-- `cs` of 43_driver.md R197 for a current of `halfMa / 2` mA, with `Ifs = VFS / RSENSE`: the real
`(mA / 1000) / Ifs * 32` is `halfMa * 32 * num / (2 * VFS_mV * den)`, exactly. The rule gives it for a current of 0 or more;
for a negative one, which no validated TMC configuration has, the same formula is applied and clamps to 0 (DESIGN CHOICE,
log 33). -/
def csOfHalfMa (r : Ratio) (halfMa : Int) : Int :=
  clamp (roundHalfAway (halfMa * 32 * r.num) (2 * Config.vfsMillivolts * r.den) - 1) 0 31

/-- Tracking or slewing: the `x ∈ {T, S}` of 43_driver.md R205. -/
inductive Phase where
  | track
  | slew
deriving DecidableEq, Repr

/-- `2 * holdMa`: twice the hold current, half the run current when the hold current is OFF (43_driver.md R197). -/
def holdHalfMa (c : DriverConfig) : Int :=
  if c.currentHold = Config.off then c.currentRun.toInt else 2 * c.currentHold.toInt

/-- `2 * runMa(x)` (43_driver.md R197). -/
def runHalfMa (c : DriverConfig) : Phase → Int
  | .track => 2 * c.currentRun.toInt
  | .slew => 2 * (if c.currentGoto = Config.off then c.currentRun else c.currentGoto).toInt

/-- `msOf(x)` (43_driver.md R205). -/
def msOf (c : DriverConfig) : Phase → Int
  | .track => c.microsteps.toInt
  | .slew => c.microstepsSlewing.toInt

/-- `decOf(x)` (43_driver.md R205). -/
def decOf (c : DriverConfig) : Phase → Word
  | .track => c.decay
  | .slew => if c.decaySlewing = Config.off then c.decay else c.decaySlewing

/-- `DECAY_LEVEL(d)` (00_scope.md R6). Outside {MIXED, FAST, SLOW} the parameter maps nothing: a free value (log 14). -/
def decayLevelOf (t : DecayLevels) (d : Word) : Level :=
  if d = Config.decayMixed then t.mixed
  else if d = Config.decayFast then t.fast
  else if d = Config.decaySlow then t.slow
  else Config.freeDecayLevel d

end Sys2Proof.Machine
end

