-- ==== Sys2Proof/Machine/Flags.lean ====
section
/-! DEFINITION. Codes and flags: result, mode, direction and ramp codes, the sticky model faults, the backlash
predicates, the driver status decoders and the packed status word (10_state.md, 30_encoding.md R86 to R88,
44_tmc_codec.md R240 to R247, 60_exceptions.md R280, R285). -/

namespace Sys2Proof.Machine

open Sys2Proof

/-- The numeric code of a result (60_exceptions.md R280). -/
def resultCode : Result → Byte
  | .ok => 0
  | .unsupported => 1
  | .invalid => 2
  | .busy => 3
  | .illegal => 4
  | .unpaired => 5
  | .refused => 6
  | .fault => 7

/-- The numeric code of a mode state (10_state.md R40). -/
def modeCode : ModeState → Word
  | .tracking => 0
  | .slewing => 1
  | .slewingRequest => 2
  | .slewingPause => 3
  | .slewingReady => 4
  | .trackingReady => 5

/-- The numeric code of a direction (10_state.md R34). -/
def dirCode : Dir → Word
  | .none => 0
  | .fwd => 1
  | .rev => 2

/-- The numeric code of a handler (10_state.md R36). -/
def handlerCode : Handler → Word
  | .standard => 0
  | .fast => 1

/-- A sign as an `s32` pattern (30_encoding.md R88). -/
def signCode (d : Sign) : Word := wordOfInt d.toInt

/-- The set with one more fault; a set fault stays (10_state.md R49). -/
def Faults.insert (f : Faults) : ModelFault → Faults
  | .overflow => { f with overflow := true }
  | .gating => { f with gating := true }
  | .unmodelled => { f with unmodelled := true }

/-- Membership in `faults` (10_state.md R49). -/
def Faults.has (f : Faults) : ModelFault → Bool
  | .overflow => f.overflow
  | .gating => f.gating
  | .unmodelled => f.unmodelled

/-- `faults` is empty. -/
def Faults.none (f : Faults) : Bool := !f.overflow && !f.gating && !f.unmodelled

/-- `homeSteps` of the current configuration registers, computed on every read (43_driver.md R196). -/
def homeSteps (s : State) : Int := homeStepsOf s.cfg

/-- `commandedPosition = motorSteps + backlashSteps` (10_state.md R29). -/
def commandedPosition (s : State) : Int := s.motorSteps.toInt + s.backlashSteps.toInt

/-- `instrumentCoordinate` (10_state.md R29). -/
def instrumentCoordinate (s : State) : Int := s.motorSteps.toInt + s.indexSteps.toInt

/-- `targetCoordinate` (10_state.md R29). -/
def targetCoordinate (s : State) : Int := s.targetSteps.toInt + s.indexSteps.toInt

/-- `amountEff` (10_state.md R29). -/
def amountEff (s : State) : Int := if s.backlashDisabled then 0 else s.backlashAmountSteps.toInt

/-- `inBacklash`: strictly inside the backlash travel (10_state.md R29). -/
def inBacklash (s : State) : Bool :=
  decide (0 < s.backlashSteps.toInt) && decide (s.backlashSteps.toInt < amountEff s)

/-- The boundary of 00_scope.md R12: `(motorSteps + backlashSteps) mod0 homeSteps`. -/
def atBoundary (s : State) : Bool := mod0 (commandedPosition s) (homeSteps s)

/-- `switchable` (42_mode_fsm.md R170). -/
def switchable (s : State) : Bool :=
  s.params.modeSwitchSupported && decide (1 < homeSteps s) && s.driverReady

/-- `level(d)` of the DIR pin (41_sequencer.md R149, 10_state.md R34). -/
def dirLevel (p : Params) : Dir → Level
  | .fwd => p.dirFwdLevel
  | .rev => p.dirFwdLevel.other
  | .none => p.dirFwdLevel.other

/-- The DIR pin: it follows `dir`, and is unspecified until the first motion (10_state.md R34, R56). -/
def pinDir (s : State) : Option Level :=
  match s.dir with
  | .none => Option.none
  | .fwd => some (dirLevel s.params .fwd)
  | .rev => some (dirLevel s.params .rev)

/-- FAILSAFE: every field true (44_tmc_codec.md R241). -/
def failsafe : DriverStatus :=
  { active := true, outputA := { shortToGround := true, openLoad := true },
    outputB := { shortToGround := true, openLoad := true }, overTemperatureWarning := true, overTemperature := true,
    standstill := true, fault := true }

/-- `decodeDrvStatusSpi(d, s)` (44_tmc_codec.md R240 to R242): a reply that is zero in data and status byte is the
fail-safe; every other reply is decoded as it stands. -/
def decodeDrvStatusSpi (d : Word) (s : Byte) : DriverStatus :=
  if d = 0#32 ∧ s = 0#8 then failsafe
  else
    { active := true
      outputA := { shortToGround := d.getLsbD 27, openLoad := d.getLsbD 29 }
      outputB := { shortToGround := d.getLsbD 28, openLoad := d.getLsbD 30 }
      overTemperatureWarning := d.getLsbD 26
      overTemperature := d.getLsbD 25
      standstill := d.getLsbD 31
      fault := d.getLsbD 30 || d.getLsbD 29 || d.getLsbD 28 || d.getLsbD 27 || d.getLsbD 26 || d.getLsbD 25 }

/-- The stall flag of a DRVSTATUS word of the SPI families (30_encoding.md R103, 44_tmc_codec.md R240). -/
def stallFlag (d : Word) : Bool := d.getLsbD 24
/-- CS_ACTUAL of the SPI families, six bits as the source says (30_encoding.md R103, 44_tmc_codec.md R250). -/
def csActualSpi (d : Word) : BitVec 6 := d.extractLsb' 16 6
/-- Full-step active (30_encoding.md R103, 44_tmc_codec.md R240). -/
def fullStepActive (d : Word) : Bool := d.getLsbD 15
/-- The stall metric (30_encoding.md R103, 44_tmc_codec.md R240). -/
def stallMetric (d : Word) : BitVec 10 := d.extractLsb' 0 10

/-- The bits of the SPI status byte, informative (30_encoding.md R95, log 23). -/
def spiResetFlag (s : Byte) : Bool := s.getLsbD 0
/-- See `spiResetFlag`: driver error. -/
def spiDriverError (s : Byte) : Bool := s.getLsbD 1
/-- See `spiResetFlag`: stall flag. -/
def spiStallFlag (s : Byte) : Bool := s.getLsbD 2
/-- See `spiResetFlag`: standstill. -/
def spiStandstill (s : Byte) : Bool := s.getLsbD 3

/-- `decodeDrvStatusUart(d)` (44_tmc_codec.md R247), with the bit positions of `UART_DRVSTATUS_LAYOUT`. An all-zero word
is no fail-safe on the UART. -/
def decodeDrvStatusUart (l : UartStatusLayout) (d : Word) : DriverStatus :=
  { active := true
    outputA := { shortToGround := d.getLsbD l.s2ga, openLoad := d.getLsbD l.ola }
    outputB := { shortToGround := d.getLsbD l.s2gb, openLoad := d.getLsbD l.olb }
    overTemperatureWarning := d.getLsbD l.otpw
    overTemperature := d.getLsbD l.ot
    standstill := d.getLsbD l.stst
    fault := d.getLsbD l.otpw || d.getLsbD l.ot || d.getLsbD l.s2ga || d.getLsbD l.s2gb || d.getLsbD l.ola
      || d.getLsbD l.olb }

/-- CS_ACTUAL of the UART family (44_tmc_codec.md R247). -/
def csActualUart (l : UartStatusLayout) (d : Word) : Nat := (d.toNat >>> l.csLow) % 2 ^ l.csWidth

/-- `genericStatus()` for a model with a FAULT pin at `level` (43_driver.md R215). -/
def genericStatusAt (p : Params) (level : Level) : DriverStatus :=
  { DriverStatus.clear with active := true, fault := level == p.faultActiveLevel }

/-- The value of one bit of the packed status. -/
def flagBit (b : Bool) (n : Nat) : Word := if b then BitVec.ofNat 32 (2 ^ n) else 0#32

/-- `pack(status)` (30_encoding.md R87). -/
def packStatus (t : DriverStatus) : Word :=
  flagBit t.active 0 ||| flagBit t.outputA.shortToGround 1 ||| flagBit t.outputA.openLoad 2
    ||| flagBit t.outputB.shortToGround 3 ||| flagBit t.outputB.openLoad 4 ||| flagBit t.overTemperatureWarning 5
    ||| flagBit t.overTemperature 6 ||| flagBit t.standstill 7 ||| flagBit t.fault 8

end Sys2Proof.Machine
end

