-- ==== Sys2Proof/Machine/Codec.lean ====
section
/-! DEFINITION. The register codec: pure functions of their arguments (44_tmc_codec.md R230 to R249), the datagrams and
the CRC of 30_encoding.md R96 and R97, and the order of bits on the wire (20_memory.md R62). -/

namespace Sys2Proof.Machine

open Sys2Proof

/-- `REG_ADDR[reg] ≤ 0x7F` (44_tmc_codec.md R230, 60_exceptions.md R285). -/
def regAddrOk (p : Params) (r : TmcReg) : Bool := decide (p.regAddr.addr r ≤ 0x7F)

/-- `addrByte(reg, write)` (44_tmc_codec.md R230). -/
def addrByte (p : Params) (r : TmcReg) (write : Bool) : Byte :=
  if write then BitVec.ofNat 8 (p.regAddr.addr r) ||| 0x80#8 else BitVec.ofNat 8 (p.regAddr.addr r) &&& 0x7F#8

/-- `spiFrame(a, data) = {a, data}` (44_tmc_codec.md R231, 30_encoding.md R93). -/
def spiFrame (a : Byte) (data : Word) : BitVec 40 := a ++ data

/-- A write frame (44_tmc_codec.md R231). -/
def spiWriteFrame (p : Params) (r : TmcReg) (v : Word) : BitVec 40 := spiFrame (addrByte p r true) v

/-- A read frame (44_tmc_codec.md R231). -/
def spiReadFrame (p : Params) (r : TmcReg) : BitVec 40 := spiFrame (addrByte p r false) 0#32

/-- The status byte of `spiParse(reply)` (44_tmc_codec.md R232). -/
def spiStatusOf (reply : BitVec 40) : Byte := reply.extractLsb' 32 8

/-- The data word of `spiParse(reply)` (44_tmc_codec.md R232). -/
def spiDataOf (reply : BitVec 40) : Word := reply.extractLsb' 0 32

/-- The 40 bits of a frame in the order of the wire, bit 39 first (20_memory.md R62, 44_tmc_codec.md R231). -/
def spiWireBits (f : BitVec 40) : List Bool := (List.range 40).map (fun i => f.getLsbD (39 - i))

/-- `packIholdIrun(h, r, dly)` (44_tmc_codec.md R233). -/
def packIholdIrun (h r dly : Word) : Word :=
  (h &&& 0x1F#32) ||| ((r &&& 0x1F#32) <<< 8) ||| ((dly &&& 0xF#32) <<< 16)

/-- `unpackIholdIrun(v) = (v[4:0], v[12:8], v[19:16])` (44_tmc_codec.md R234). -/
def unpackIholdIrun (v : Word) : BitVec 5 × BitVec 5 × BitVec 4 :=
  (v.extractLsb' 0 5, v.extractLsb' 8 5, v.extractLsb' 16 4)

/-- `mresOf(v) = v[27:24]` (44_tmc_codec.md R235). -/
def mresOf (v : Word) : BitVec 4 := v.extractLsb' 24 4

/-- `chopconf(base, mres)` (44_tmc_codec.md R236). -/
def chopconf (base mres : Word) : Word := (base &&& 0xF0FFFFFF#32) ||| ((mres &&& 0xF#32) <<< 24)

/-- `gconfSpi(d)` (44_tmc_codec.md R237). -/
def gconfSpi (d : Word) : Word :=
  0x00000001#32 ||| (if d = Config.decayStealthChop then 0x00000004#32 else 0#32)

/-- `gconfUart(d)` (44_tmc_codec.md R246). `UART_SPREAD_POLARITY` true means that bit 2 = 1 selects SPREAD_CYCLE, the
default; false means that bit 2 = 1 selects the other mode, as in the SPI families (log 15). -/
def gconfUart (p : Params) (d : Word) : Word :=
  p.uartGconfBase |||
    (if (d == Config.decaySpreadCycle) == p.uartSpreadPolarity then 0x00000004#32 else 0#32)

/-- `pwmconf() = PWMCONF_VALUE` (44_tmc_codec.md R238). -/
def pwmconfValue (p : Params) : Word := p.pwmconfValue

/-- `coolconf() = COOLCONF_VALUE` (44_tmc_codec.md R239). -/
def coolconfValue (p : Params) : Word := p.coolconfValue

/-- One bit fed to the CRC: the loop's body of 30_encoding.md R97. -/
def crcBit (c : UartCrc) (crc : Nat) (b : Bool) : Nat :=
  if (crc.testBit (c.width - 1)) != b then ((2 * crc) ^^^ c.poly) % 2 ^ c.width else (2 * crc) % 2 ^ c.width

/-- One byte fed to the CRC, in the parameter's bit order (30_encoding.md R97). -/
def crcByte (c : UartCrc) (crc : Nat) (b : Byte) : Nat :=
  (List.range 8).foldl (fun k i => crcBit c k (b.getLsbD (if c.lsbFirst then i else 7 - i))) crc

/-- The low `n` bits of `v` in the opposite order. -/
def reverseBits (n v : Nat) : Nat := (List.range n).foldl (fun a i => 2 * a + (v.testBit i).toNat) 0

/-- The CRC of a byte sequence (30_encoding.md R97). -/
def crcValue (c : UartCrc) (bs : List Byte) : Nat :=
  let v := bs.foldl (crcByte c) c.init
  ((if c.reflectOut then reverseBits c.width v else v) ^^^ c.xorOut) % 2 ^ c.width

/-- `crc8(bytes)`: the low byte of the CRC, all of it at the default width of 8 (30_encoding.md R97,
44_tmc_codec.md R244). -/
def crc8 (f : UartFraming) (bs : List Byte) : Byte := BitVec.ofNat 8 (crcValue f.crc bs)

/-- A datagram with its CRC appended (44_tmc_codec.md R243). -/
def withCrc (f : UartFraming) (bs : List Byte) : List Byte := bs ++ [crc8 f bs]

/-- `v[31:24], v[23:16], v[15:8], v[7:0]` (30_encoding.md R96, 20_memory.md R62). -/
def bytesOfWord (v : Word) : List Byte :=
  [v.extractLsb' 24 8, v.extractLsb' 16 8, v.extractLsb' 8 8, v.extractLsb' 0 8]

/-- The byte of one field of a datagram, after the bytes `done`. -/
def uartFieldByte (c : UartCrc) (dev reg : Byte) (v : Word) (done : List Byte) : UartField → Byte
  | .const b => b
  | .device => dev
  | .register => reg
  | .data k => v.extractLsb' (8 * k) 8
  | .crc k => BitVec.ofNat 8 (crcValue c done >>> (8 * k))

/-- The bytes of a datagram in the parameter's layout, after the bytes `done` (30_encoding.md R96). -/
def uartEncode (c : UartCrc) (dev reg : Byte) (v : Word) : List UartField → List Byte → List Byte
  | [], done => done
  | x :: xs, done => uartEncode c dev reg v xs (done ++ [uartFieldByte c dev reg v done x])

/-- The device address of the axis as a byte, `UART_ADDR` (30_encoding.md R96). -/
def uartDevice (p : Params) : Byte := p.uartAddr.setWidth 8

/-- `uartWrite(reg, v)` (44_tmc_codec.md R243). -/
def uartWrite (p : Params) (r : TmcReg) (v : Word) : List Byte :=
  uartEncode p.uartFraming.crc (uartDevice p) (addrByte p r true) v p.uartFraming.writeLayout []

/-- `uartReadReq(reg)` (44_tmc_codec.md R243). -/
def uartReadReq (p : Params) (r : TmcReg) : List Byte :=
  uartEncode p.uartFraming.crc (uartDevice p) (addrByte p r false) 0#32 p.uartFraming.requestLayout []

/-- The well-formed read reply that carries `v` (30_encoding.md R96). -/
def uartReply (p : Params) (r : TmcReg) (v : Word) : List Byte :=
  uartEncode p.uartFraming.crc (uartDevice p) (addrByte p r false) v p.uartFraming.replyLayout []

/-- The data word that a datagram's data bytes carry. -/
def uartData : List UartField → List Byte → Word
  | .data k :: xs, b :: bs => (b.setWidth 32 <<< (8 * k)) ||| uartData xs bs
  | .const _ :: xs, _ :: bs => uartData xs bs
  | .device :: xs, _ :: bs => uartData xs bs
  | .register :: xs, _ :: bs => uartData xs bs
  | .crc _ :: xs, _ :: bs => uartData xs bs
  | _, _ => 0#32

/-- `uartParse(reg, reply)`: the data word, or nothing for FAIL: the reply must be, byte for byte and in length, the
well-formed reply with the data it carries, so header, register address and CRC are all checked (44_tmc_codec.md R245). -/
def uartParse (p : Params) (r : TmcReg) (reply : Option (List Byte)) : Option Word :=
  match reply with
  | none => none
  | some bs =>
    if bs = uartReply p r (uartData p.uartFraming.replyLayout bs) then
      some (uartData p.uartFraming.replyLayout bs)
    else none

/-- One byte on the UART: a start bit 0, the byte least significant bit first, a stop bit 1 (30_encoding.md R96). -/
def uartWireBits (b : Byte) : List Bool := [false] ++ (List.range 8).map (fun i => b.getLsbD i) ++ [true]

/-- What the receive line carries: on a single wire the block's own bytes come first (45_bus.md R271, log 16). -/
def wireReceived (singleWire : Bool) (out reply : List Byte) : List Byte :=
  if singleWire then out ++ reply else reply

/-- The transactor drops the echo of its own bytes on a single wire (45_bus.md R271). -/
def dropEcho (singleWire : Bool) (out received : List Byte) : List Byte :=
  if singleWire then received.drop out.length else received

/-- The reply that the transactor collects from the line; an empty one is a missing reply (45_bus.md R261, R271). -/
def collectReply (singleWire : Bool) (out : List Byte) (reply : Option (List Byte)) : Option (List Byte) :=
  match dropEcho singleWire out (wireReceived singleWire out (reply.getD [])) with
  | [] => none
  | b :: bs => some (b :: bs)

/-- The IHOLD_IRUN value of tracking or slewing, `ihr(x)` (43_driver.md R205, R197). -/
def ihr (p : Params) (c : DriverConfig) (x : Phase) : Word :=
  packIholdIrun (wordOfInt (csOfHalfMa p.rsense (holdHalfMa c))) (wordOfInt (csOfHalfMa p.rsense (runHalfMa c x)))
    (wordOfInt p.iholdDelay)

end Sys2Proof.Machine
end

