-- ==== Sys2Proof/Machine/Ops.lean ====
section
/-! DEFINITION. The named operations over the registers, pins and history; the frame of a host command and its result
(60_exceptions.md R280 to R286, R300); the tick handlers and TAKING A TICK, the block's one interrupt, as one shared
operation (41_sequencer.md R147 to R152, 60_exceptions.md R287 to R291); and ARM (41_sequencer.md R143). -/

namespace Sys2Proof.Machine

open Sys2Proof

/-- Appends one event to `history` (10_state.md R50). -/
def emit (s : State) (e : Event) : State := { s with history := s.history ++ [e] }

/-- Sets one sticky model fault and nothing else (60_exceptions.md R285, R286). -/
def addFault (s : State) (f : ModelFault) : State := { s with faults := s.faults.insert f }

/-- Appends the response of a host command (30_encoding.md R82). -/
def respond (s : State) (op : Byte) (r : Result) (value : Word) : State := emit s (.resp op r value)

/-- The start of a main-loop operation: the chance of a grace tick is lost (41_sequencer.md R144, log 8). -/
def beginMainLoop (s : State) : State := { s with graceTick := false }

/-- How the body of a host command ends (60_exceptions.md R280 to R286). -/
inductive Answer where
  /-- The command completed: the new state and the returned value. -/
  | done (s : State) (value : Word)
  /-- `raise r`: no state is written (R283). -/
  | raise (r : Result)
  /-- A failed DRVINIT, the one refusal that writes state (R283, 43_driver.md R202). -/
  | failed (s : State) (r : Result)
  /-- A model fault: nothing is written but the fault, and the result is FAULT (R286). -/
  | modelFault (f : ModelFault)

/-- The response that a body's end gives, over the state `s` at the start of the command. -/
def answerCommand (s : State) (op : Byte) : Answer → State
  | .done t value => respond t op .ok value
  | .raise r => respond s op r 0#32
  | .failed t r => respond t op r 0#32
  | .modelFault f => respond (addFault s f) op .fault 0#32

/-- One host command as a main-loop operation: the grace tick is lost, the body runs, and the response follows every
event the command caused (60_exceptions.md R300). -/
def hostCommand (s : State) (op : Byte) (body : State → Answer) : Host.Outcome State Fault Refusal :=
  .next (answerCommand (beginMainLoop s) op (body (beginMainLoop s)))

/-- Ends a body with `chk(v)` stored by `k`, or with `F_OVERFLOW` (00_scope.md R9). -/
def storeChecked (v : Int) (k : Word → State) : Answer :=
  match chk v with
  | some w => .done (k w) 0#32
  | none => .modelFault .overflow

/-- Ends a getter with `chk(v)` as its value, or with `F_OVERFLOW` (40_position.md section 4). -/
def valueChecked (s : State) (v : Int) : Answer :=
  match chk v with
  | some w => .done s w
  | none => .modelFault .overflow

/-- The mode states in which motion commands and the standard handler work (40_position.md R110, 41_sequencer.md R147). -/
def trackingModes (m : ModeState) : Bool := m == .tracking || m == .slewingRequest

/-- `setDir(d)`: the PIN event comes only when `dir` changes (41_sequencer.md R149). -/
def setDir (s : State) (d : Dir) : State :=
  if s.dir = d then s else emit { s with dir := d } (.pin .dir (dirLevel s.params d))

/-- The current level of a pin, or none while it is unspecified (10_state.md R48, 43_driver.md R210). -/
def pinLevel (s : State) : Pin → Option Level
  | .dir => pinDir s
  | .en => some s.pins.en
  | .m0 => s.pins.m0
  | .m1 => s.pins.m1
  | .m2 => s.pins.m2
  | .decay => s.pins.decay

/-- Stores a pin's level. The DIR pin has no level of its own: it follows `dir` (10_state.md R34). -/
def storePin (s : State) (p : Pin) (level : Level) : State :=
  match p with
  | .dir => s
  | .en => { s with pins := { s.pins with en := level } }
  | .m0 => { s with pins := { s.pins with m0 := some level } }
  | .m1 => { s with pins := { s.pins with m1 := some level } }
  | .m2 => { s with pins := { s.pins with m2 := some level } }
  | .decay => { s with pins := { s.pins with decay := some level } }

/-- `setPin(p, level)`: a PIN event when the level differs or is still unspecified (43_driver.md R210). -/
def setPin (s : State) (p : Pin) (level : Level) : State :=
  if pinLevel s p = some level then s else emit (storePin s p level) (.pin p level)

/-- `consumeRearm()` (41_sequencer.md R150). -/
def consumeRearm (s : State) : State :=
  if s.rearm then { s with step := s.pendingStep, rearm := false } else s

/-- The auto-advance of `targetSteps` when it is allowed, or nothing when it overflows (41_sequencer.md R148, R152). -/
def autoAdvance (s : State) (allowed : Bool) : Option State :=
  if s.synchronized && allowed then
    (chk (s.targetSteps.toInt + s.step.toInt)).map (fun t => { s with targetSteps := t })
  else some s

/-- The end of a move in direction `d`: DIR settles, then the pulse (20_memory.md R69, 41_sequencer.md R149). -/
def pulseIn (s : State) (d : Dir) : State := emit (setDir s d) (.pulse d)

/-- Steps 3 to 5 of the standard handler: one step toward the target, the backlash first (41_sequencer.md R148). -/
def stdMove (s : State) : Option State :=
  if s.targetSteps.toInt < s.motorSteps.toInt then
    if 0 < s.backlashSteps.toInt then
      some (pulseIn { s with backlashSteps := wordOfInt (s.backlashSteps.toInt - 1) } .rev)
    else
      (chk (s.motorSteps.toInt - 1)).map (fun m => pulseIn { s with motorSteps := m } .rev)
  else if s.motorSteps.toInt < s.targetSteps.toInt then
    if s.backlashSteps.toInt < amountEff s then
      some (pulseIn { s with backlashSteps := wordOfInt (s.backlashSteps.toInt + 1) } .fwd)
    else
      (chk (s.motorSteps.toInt + 1)).map (fun m => pulseIn { s with motorSteps := m } .fwd)
  else some s

/-- The standard handler's gate: SLEWING_REQUEST on a boundary (42_mode_fsm.md R174). -/
def gateOpen (s : State) : Bool := s.modeState == .slewingRequest && atBoundary s

/-- EV_TICK_STD, the standard tick handler (41_sequencer.md R148). -/
def stdTick (s : State) : Except ModelFault State :=
  if gateOpen s then .ok { s with modeState := .slewingPause, modeReq := true }
  else if !(trackingModes s.modeState && s.enabled) then .ok s
  else
    match (autoAdvance s (!inBacklash s)).bind stdMove with
    | some t => .ok (consumeRearm t)
    | none => .error .overflow

/-- One slewing step of the fast handler, in the latched direction and never past the target (41_sequencer.md R152). -/
def fastMove (s : State) : Option State :=
  if s.dir = .fwd ∧ homeSteps s ≤ s.targetSteps.toInt - s.motorSteps.toInt then
    (chk (s.motorSteps.toInt + homeSteps s)).map (fun m => emit { s with motorSteps := m } (.pulse .fwd))
  else if s.dir = .rev ∧ homeSteps s ≤ s.motorSteps.toInt - s.targetSteps.toInt then
    (chk (s.motorSteps.toInt - homeSteps s)).map (fun m => emit { s with motorSteps := m } (.pulse .rev))
  else some s

/-- EV_TICK_FAST, the fast tick handler (41_sequencer.md R152). -/
def fastTick (s : State) : Except ModelFault State :=
  if !(s.modeState == .slewing && s.enabled) then .ok s
  else
    match (autoAdvance s true).bind fastMove with
    | some t => .ok (consumeRearm t)
    | none => .error .overflow

/-- Agent T can take a step (41_sequencer.md R147). -/
def tickEnabled (s : State) : Bool := s.timerRunning || s.graceTick

/-- The step of T that is the grace tick clears `graceTick` (41_sequencer.md R144, R147). -/
def spendGrace (s : State) : State := if s.timerRunning then s else { s with graceTick := false }

/-- The installed handler (10_state.md R36, 60_exceptions.md R289). -/
def runHandler (s : State) : Except ModelFault State :=
  match s.handler with
  | .standard => stdTick s
  | .fast => fastTick s

/-- TAKING THE TICK, the block's one interrupt: it saves nothing and changes no mode; it runs the installed handler to
completion as one indivisible step and returns by ending it (60_exceptions.md R287 to R290, 41_sequencer.md R147). A
model fault leaves the state as before the step but for the fault (R286, log 8). A tick that T cannot take is no step
(log 7). -/
def takeTick (s : State) : State :=
  if tickEnabled s then
    match runHandler (spendGrace s) with
    | .ok t => t
    | .error f => addFault s f
  else s

/-- `n` ticks in a row (30_encoding.md R90, `TICK n`). -/
def runTicks : Nat → State → State
  | 0, s => s
  | n + 1, s => runTicks n (takeTick s)

/-- A point of a main-loop operation at which T may interleave: between two ATOMIC sections, or before or after a bus
transaction (20_memory.md R67, 45_bus.md R261). `preempt` says how many ticks run there (log 3, log 26). -/
def preemptPoint (s : State) : State :=
  match s.preempt with
  | [] => s
  | n :: rest => runTicks n { s with preempt := rest }

/-- `mult` of ARM (41_sequencer.md R143). -/
def armMult (s : State) : Int :=
  match s.handler with
  | .fast => homeSteps s
  | .standard => 1

/-- The last part of ARM: the step for direction `newDir`, zeroed for one tick when the direction changes
(41_sequencer.md R143). -/
def armStep (s : State) (newDir : Sign) : State :=
  if newDir ≠ s.dirLatch then
    { s with step := 0#32, pendingStep := wordOfInt (newDir.toInt * armMult s), rearm := true, dirLatch := newDir }
  else if s.rearm then { s with pendingStep := wordOfInt (newDir.toInt * armMult s) }
  else { s with step := wordOfInt (newDir.toInt * armMult s) }

/-- `ARM()` (41_sequencer.md R143, R144): the timer and the step from `freqBits` and `handler`. A timer parameter outside
its domain raises `F_UNMODELLED` when it is used, which is in RUN (60_exceptions.md R285). The grace tick that a stop leaves
runs with the `step` written here, as R144 and 92_eei_decisions.md D16 say; 70_reset_and_hazards.md R316 and
93_implementation_defined.md I18 speak of the old step (DEDUCED, log 31). -/
def arm (s : State) : Except ModelFault State :=
  match classify s.freqBits with
  | .stop =>
    .ok (armStep { s with graceTick := s.graceTick || s.timerRunning, timerRunning := false, periodSub := 0 } .zero)
  | .run d pNum pDen =>
    if timerParamsOk s.params then
      .ok (armStep { s with periodSub := periodOf s.params pNum pDen (armMult s), timerRunning := true,
                            graceTick := false } d)
    else .error .unmodelled

end Sys2Proof.Machine
end

