-- ==== Sys2Proof/Machine/Bus.lean ====
section
/-! DEFINITION. The SPI/UART transactor (45_bus.md R260 to R272): one transaction, the register write with its shadow,
and the register reads. The chip is an oracle (R266). -/

namespace Sys2Proof.Machine

open Sys2Proof

/-- `PAUSE()` has no effect on state in the untimed model (45_bus.md R263); it stands before a transaction, where T may
step (R261). -/
def pause (s : State) : State := preemptPoint s

/-- The oracle's next SPI reply (45_bus.md R266, log 4). -/
def nextSpi (o : Oracle) : BitVec 40 × Oracle :=
  match o.spi with
  | r :: rest => (r, { o with spi := rest, served := o.served + 1 })
  | [] => (Config.freeSpiReply o.served, { o with served := o.served + 1 })

/-- The oracle's next reply to a UART read request (45_bus.md R266, log 4). -/
def nextUart (o : Oracle) : Option (List Byte) × Oracle :=
  match o.uart with
  | r :: rest => (r, { o with uart := rest, served := o.served + 1 })
  | [] => (Config.freeUartReply o.served, { o with served := o.served + 1 })

/-- The oracle's next level of the FAULT input (45_bus.md R266, log 4). -/
def nextFaultLevel (o : Oracle) : Level × Oracle :=
  match o.faultPin with
  | r :: rest => (r, { o with faultPin := rest, served := o.served + 1 })
  | [] => (Config.freeFaultLevel o.served, { o with served := o.served + 1 })

/-- `BusTxn(out)` on SPI: the reply, and the state with the TXN event (45_bus.md R261). -/
def spiTxn (s : State) (out : BitVec 40) : BitVec 40 × State :=
  ((nextSpi s.oracle).1,
   emit { s with oracle := (nextSpi s.oracle).2 } (.txn (.spi out (nextSpi s.oracle).1)))

/-- `BusTxn(out)` of a UART write: there is no reply (45_bus.md R261, R266). -/
def uartWriteTxn (s : State) (out : List Byte) : State := emit s (.txn (.uart out none))

/-- `BusTxn(out)` of a UART read request (45_bus.md R261, R271). -/
def uartReadTxn (s : State) (out : List Byte) : Option (List Byte) × State :=
  (collectReply s.params.uartSingleWire out (nextUart s.oracle).1,
   emit { s with oracle := (nextUart s.oracle).2 }
     (.txn (.uart out (collectReply s.params.uartSingleWire out (nextUart s.oracle).1))))

/-- `shadow[r]` with `shadowValid[r]`; DRVSTATUS has none (45_bus.md R269). -/
def shadowOf (t : Shadows) : TmcReg → Shadow
  | .gconf => t.gconf
  | .iholdIrun => t.iholdIrun
  | .chopconf => t.chopconf
  | .pwmconf => t.pwmconf
  | .coolconf => t.coolconf
  | .drvStatus => Shadow.invalid

/-- `shadow[r] <- v; shadowValid[r] <- true` (45_bus.md R262). -/
def setShadow (t : Shadows) (r : TmcReg) (v : Word) : Shadows :=
  match r with
  | .gconf => { t with gconf := { value := v, valid := true } }
  | .iholdIrun => { t with iholdIrun := { value := v, valid := true } }
  | .chopconf => { t with chopconf := { value := v, valid := true } }
  | .pwmconf => { t with pwmconf := { value := v, valid := true } }
  | .coolconf => { t with coolconf := { value := v, valid := true } }
  | .drvStatus => t

/-- `shadowValid[reg] <- false` for every register (43_driver.md R202, R203). -/
def invalidateShadows (t : Shadows) : Shadows :=
  { gconf := { t.gconf with valid := false }, iholdIrun := { t.iholdIrun with valid := false },
    chopconf := { t.chopconf with valid := false }, pwmconf := { t.pwmconf with valid := false },
    coolconf := { t.coolconf with valid := false } }

/-- The write is suppressed: the valid shadow already holds the value (45_bus.md R262). -/
def writeSuppressed (s : State) (r : TmcReg) (v : Word) : Bool :=
  (shadowOf s.shadows r).valid && (shadowOf s.shadows r).value == v

/-- Sends a register value on the block's link (45_bus.md R260, R262); a GENERIC model has no link. -/
def sendRegister (s : State) (r : TmcReg) (v : Word) : State :=
  match s.params.model.cls with
  | .tmcSpi => (spiTxn s (spiWriteFrame s.params r v)).2
  | .tmcUart => uartWriteTxn s (uartWrite s.params r v)
  | .generic => s

/-- `RegWrite(reg, v)` (45_bus.md R262). -/
def regWrite (s : State) (r : TmcReg) (v : Word) : State :=
  if writeSuppressed s r v then s
  else
    { sendRegister (pause s) r v with shadows := setShadow (sendRegister (pause s) r v).shadows r v }

/-- `RegWrite(reg, v)` would use a register address outside its domain (44_tmc_codec.md R230, 60_exceptions.md R285). -/
def regWriteBad (s : State) (r : TmcReg) (v : Word) : Bool :=
  !writeSuppressed s r v && !regAddrOk s.params r

/-- `RegRead` over SPI: two transactions with the read address, the second reply counts (45_bus.md R264). -/
def regReadSpi (s : State) (r : TmcReg) : BitVec 40 × State :=
  spiTxn (pause (spiTxn (pause s) (spiReadFrame s.params r)).2) (spiReadFrame s.params r)

/-- `RegRead` over UART: one transaction; nothing is FAIL (45_bus.md R265). -/
def regReadUart (s : State) (r : TmcReg) : Option Word × State :=
  (uartParse s.params r (uartReadTxn (pause s) (uartReadReq s.params r)).1,
   (uartReadTxn (pause s) (uartReadReq s.params r)).2)

end Sys2Proof.Machine
end

