-- ==== Sys2Proof/Machine/DriverOps.lean ====
section
/-! DEFINITION. The operations of the stepper driver that several instructions share: the validation of a configuration,
the microstep and decay operations, power, and the status read (43_driver.md R190 to R222). -/

namespace Sys2Proof.Machine

open Sys2Proof

/-- The verdict of `validateConfig`: OK, a result to raise, or a table entry outside its domain (43_driver.md R198). -/
inductive Verdict where
  | ok
  | refuse (r : Result)
  | unmodelled
deriving DecidableEq, Repr

/-- A current register is OFF or in 0..`I_MAX_MA` (43_driver.md R198, check 3). -/
def currentOk (p : Params) (c : Word) : Bool :=
  c == Config.off || (decide (0 ≤ c.toInt) && decide (c.toInt ≤ p.iMaxMa))

/-- `d ∈ legal` (43_driver.md R198, check 4). -/
def decayLegal (p : Params) (d : Word) : Bool :=
  match p.model.cls with
  | .generic => d == Config.decayMixed || d == Config.decayFast || d == Config.decaySlow
  | .tmcSpi => d == Config.decaySpreadCycle || d == Config.decayStealthChop
  | .tmcUart => d == Config.decaySpreadCycle || d == Config.decayStealthChop

/-- Checks 1 to 4 of `validateConfig` in their order; the first failure is the result (43_driver.md R198). -/
def configChecks (p : Params) (c : DriverConfig) : Result :=
  if !inMsSet c.microsteps.toInt then .invalid
  else if subdivisionsToCode p c.microsteps.toInt = unsupportedCode then .unsupported
  else if c.microstepsSlewing ≠ Config.off ∧ inMsSet c.microstepsSlewing.toInt = false then .invalid
  else if c.microstepsSlewing ≠ Config.off ∧ subdivisionsToCode p c.microstepsSlewing.toInt = unsupportedCode then
    .unsupported
  else if c.microstepsSlewing ≠ Config.off ∧ c.microsteps.toInt < c.microstepsSlewing.toInt then .invalid
  else if !currentOk p c.currentHold then .invalid
  else if !currentOk p c.currentRun then .invalid
  else if !currentOk p c.currentGoto then .invalid
  else if p.model.cls ≠ .generic ∧ c.currentRun = Config.off then .invalid
  else if !decayLegal p c.decay then .invalid
  else if c.decaySlewing ≠ Config.off ∧ decayLegal p c.decaySlewing = false then .invalid
  else .ok

/-- The code table entries that the configuration uses are in their domain (43_driver.md R194). -/
def configCodesOk (p : Params) (c : DriverConfig) : Bool :=
  codeOk p c.microsteps.toInt && (c.microstepsSlewing == Config.off || codeOk p c.microstepsSlewing.toInt)

/-- `validateConfig(cfg)` (43_driver.md R198). A model fault arises only after every check has passed
(60_exceptions.md R281, log 10). -/
def validateConfig (p : Params) (c : DriverConfig) : Verdict :=
  match configChecks p c with
  | .ok => if configCodesOk p c then .ok else .unmodelled
  | r => .refuse r

/-- `setPin(p, level)` as a step of a driver operation: the pin event is a step of its own, before which T may step
(00_scope.md R10, 20_memory.md R68, log 26). -/
def drivePin (s : State) (p : Pin) (level : Level) : State :=
  if pinLevel s p = some level then s else setPin (preemptPoint s) p level

/-- `setMicrostep(x)` (43_driver.md R206, R207): the M pins of a generic model, or IHOLD_IRUN and then CHOPCONF. The rule
says that the code cannot be UNSUPPORTED. Where the schedule raises the operation by itself on a configuration without a
code, the formulas are applied to UNSUPPORTED = -1 as they stand: MRES 0xF, or all three pins HIGH (DESIGN CHOICE, log 32). -/
def setMicrostep (s : State) (x : Phase) : State :=
  let c := wordOfInt (subdivisionsToCode s.params (msOf s.cfg x))
  match s.params.model.cls with
  | .generic =>
    if s.params.hasMPins then
      drivePin (drivePin (drivePin s .m0 (if c.getLsbD 0 then .high else .low))
        .m1 (if c.getLsbD 1 then .high else .low)) .m2 (if c.getLsbD 2 then .high else .low)
    else s
  | .tmcSpi => regWrite (regWrite s .iholdIrun (ihr s.params s.cfg x)) .chopconf (chopconf s.params.chopconfBase c)
  | .tmcUart => regWrite (regWrite s .iholdIrun (ihr s.params s.cfg x)) .chopconf (chopconf s.params.chopconfBase c)

/-- `setMicrostep(x)` would use a parameter outside its domain (60_exceptions.md R285, log 9). -/
def setMicrostepBad (s : State) (x : Phase) : Bool :=
  match s.params.model.cls with
  | .generic => !codeOk s.params (msOf s.cfg x)
  | .tmcSpi =>
    !rsenseOk s.params.rsense || !iholdDelayOk s.params.iholdDelay
      || regWriteBad s .iholdIrun (ihr s.params s.cfg x)
      || regWriteBad s .chopconf
           (chopconf s.params.chopconfBase (wordOfInt (subdivisionsToCode s.params (msOf s.cfg x))))
  | .tmcUart =>
    !rsenseOk s.params.rsense || !iholdDelayOk s.params.iholdDelay
      || regWriteBad s .iholdIrun (ihr s.params s.cfg x)
      || regWriteBad s .chopconf
           (chopconf s.params.chopconfBase (wordOfInt (subdivisionsToCode s.params (msOf s.cfg x))))

/-- `setDecay(x)` (43_driver.md R208, R209): the DECAY pin of a generic model, or GCONF. -/
def setDecay (s : State) (x : Phase) : State :=
  match s.params.model.cls with
  | .generic =>
    if s.params.hasDecayPin then drivePin s .decay (decayLevelOf s.params.decayLevels (decOf s.cfg x)) else s
  | .tmcSpi => regWrite s .gconf (gconfSpi (decOf s.cfg x))
  | .tmcUart => regWrite s .gconf (gconfUart s.params (decOf s.cfg x))

/-- `setDecay(x)` would use a register address outside its domain (60_exceptions.md R285). -/
def setDecayBad (s : State) (x : Phase) : Bool :=
  match s.params.model.cls with
  | .generic => false
  | .tmcSpi => regWriteBad s .gconf (gconfSpi (decOf s.cfg x))
  | .tmcUart => regWriteBad s .gconf (gconfUart s.params (decOf s.cfg x))

/-- `DRV_POWER(on)` (43_driver.md R218): the EN pin, and no register. -/
def power (s : State) (on : Bool) : State :=
  setPin s .en (if on then s.params.enActiveLevel else s.params.enActiveLevel.other)

/-- `genericStatus()` (43_driver.md R215): the FAULT input where there is one, else every field false. -/
def genericStatus (s : State) : State :=
  if s.params.hasFaultPin then
    { s with oracle := (nextFaultLevel s.oracle).2
             status := genericStatusAt s.params (nextFaultLevel s.oracle).1 }
  else { s with status := DriverStatus.clear }

/-- `updateStatus` (43_driver.md R214). A DRVSTATUS address outside its domain raises `F_UNMODELLED` (44_tmc_codec.md
R230). A UART FAIL gives FAILSAFE and leaves `lastDrvStatus`. -/
def updateStatus (s : State) : Except ModelFault State :=
  match s.params.model.cls with
  | .generic => .ok (genericStatus s)
  | .tmcSpi =>
    if regAddrOk s.params .drvStatus then
      let r := (regReadSpi s .drvStatus).1
      .ok { (regReadSpi s .drvStatus).2 with
              lastSpiStatus := spiStatusOf r
              lastDrvStatus := spiDataOf r
              status := decodeDrvStatusSpi (spiDataOf r) (spiStatusOf r) }
    else .error .unmodelled
  | .tmcUart =>
    if regAddrOk s.params .drvStatus then
      match (regReadUart s .drvStatus).1 with
      | none => .ok { (regReadUart s .drvStatus).2 with status := failsafe }
      | some d =>
        .ok { (regReadUart s .drvStatus).2 with
                lastDrvStatus := d
                status := decodeDrvStatusUart s.params.uartDrvStatus d }
    else .error .unmodelled

/-- A step of the block's own that either completes or raises a model fault (60_exceptions.md R286). -/
def orFault (s : State) : Except ModelFault State → State
  | .ok t => t
  | .error f => addFault s f

end Sys2Proof.Machine
end

