-- ==== Sys2Proof/Machine/Driver.lean ====
section
/-! DEFINITION. The meanings of the driver's commands, internal operations and status poll (43_driver.md R190 to R222). -/

namespace Sys2Proof.Machine

open Sys2Proof

/-- The register writes or pin settings of a DRVINIT whose configuration is valid (43_driver.md R202). -/
def driverSetup (s : State) : State :=
  match s.params.model.cls with
  | .generic => setDecay (setMicrostep s .track) .track
  | .tmcSpi =>
    regWrite (setDecay (regWrite (setMicrostep s .track) .pwmconf (pwmconfValue s.params)) .track) .coolconf
      (coolconfValue s.params)
  | .tmcUart =>
    regWrite (setDecay (regWrite (setMicrostep s .track) .pwmconf (pwmconfValue s.params)) .track) .coolconf
      (coolconfValue s.params)

/-- The setup would use a parameter outside its domain (60_exceptions.md R285, log 9). -/
def driverSetupBad (s : State) : Bool :=
  match s.params.model.cls with
  | .generic => setMicrostepBad s .track
  | .tmcSpi =>
    setMicrostepBad s .track || regWriteBad s .pwmconf (pwmconfValue s.params) || setDecayBad s .track
      || regWriteBad s .coolconf (coolconfValue s.params)
  | .tmcUart =>
    setMicrostepBad s .track || regWriteBad s .pwmconf (pwmconfValue s.params) || setDecayBad s .track
      || regWriteBad s .coolconf (coolconfValue s.params)

/-- The end of a DRVINIT: ready, and EN follows `enabled` (43_driver.md R202). T may step between the setup's last
transaction or pin event and the EN pin (45_bus.md R261, log 26). -/
def armDriver (s : State) : State := power { preemptPoint s with driverReady := true } s.enabled

/-- DRVINIT (43_driver.md R202). BUSY and FAULT leave `driverReady`; a refused configuration clears it (log 11). -/
def execDrvInit (s : State) : Host.Outcome State Fault Refusal :=
  hostCommand s 0x50#8 fun t =>
    if t.modeState ≠ .tracking then .raise .busy
    else
      match validateConfig t.params t.cfg with
      | .refuse r => .failed { t with driverReady := false } r
      | .unmodelled => .modelFault .unmodelled
      | .ok =>
        if driverSetupBad { t with shadows := invalidateShadows t.shadows } then .modelFault .unmodelled
        else .done (armDriver (driverSetup { t with shadows := invalidateShadows t.shadows })) 0#32

/-- VALPARAM (43_driver.md R199). An id of 7 is ILLEGAL (30_encoding.md R81, log 19). -/
def execValParam (p : BitVec 3) (v : Word) (s : State) : Host.Outcome State Fault Refusal :=
  hostCommand s 0x51#8 fun t =>
    match paramOfField p with
    | none => .raise .illegal
    | some id =>
      match validateConfig t.params (cfgSet t.cfg id v) with
      | .refuse r => .raise r
      | .unmodelled => .modelFault .unmodelled
      | .ok => .done t 0#32

/-- SETPARAM (43_driver.md R200). An id of 7 is ILLEGAL, before BUSY (30_encoding.md R81, 60_exceptions.md R281). -/
def execSetParam (p : BitVec 3) (v : Word) (s : State) : Host.Outcome State Fault Refusal :=
  hostCommand s 0x52#8 fun t =>
    match paramOfField p with
    | none => .raise .illegal
    | some id =>
      if t.modeState ≠ .tracking then .raise .busy
      else
        match validateConfig t.params (cfgSet t.cfg id v) with
        | .refuse r => .raise r
        | .unmodelled => .modelFault .unmodelled
        | .ok => .done { t with cfg := cfgSet t.cfg id v } 0#32

/-- GETPARAM (43_driver.md R201). An id of 7 is ILLEGAL (30_encoding.md R81, log 19). -/
def execGetParam (p : BitVec 3) (s : State) : Host.Outcome State Fault Refusal :=
  hostCommand s 0x53#8 fun t =>
    match paramOfField p with
    | none => .raise .illegal
    | some id => .done t (cfgGet t.cfg id)

/-- GETSTATUS (43_driver.md R216): the last decoded status, and no transaction. -/
def execGetStatus (s : State) : Host.Outcome State Fault Refusal :=
  hostCommand s 0x54#8 fun t => .done t (packStatus t.status)

/-- CALIBRATE (43_driver.md R219): the command answers REFUSED and changes nothing. -/
def execCalibrate (s : State) : Host.Outcome State Fault Refusal :=
  hostCommand s 0x55#8 fun _ => .raise .refused

/-- DRV_MS_TRACK (43_driver.md R206), raised by itself (log 6). -/
def execDrvMsTrack (s : State) : Host.Outcome State Fault Refusal :=
  .next (if setMicrostepBad s .track then addFault s .unmodelled else setMicrostep s .track)

/-- DRV_MS_SLEW (43_driver.md R207), raised by itself (log 6). -/
def execDrvMsSlew (s : State) : Host.Outcome State Fault Refusal :=
  .next (if setMicrostepBad s .slew then addFault s .unmodelled else setMicrostep s .slew)

/-- DRV_DECAY_TRACK (43_driver.md R208), raised by itself (log 6). -/
def execDrvDecayTrack (s : State) : Host.Outcome State Fault Refusal :=
  .next (if setDecayBad s .track then addFault s .unmodelled else setDecay s .track)

/-- DRV_DECAY_SLEW (43_driver.md R209), raised by itself (log 6). -/
def execDrvDecaySlew (s : State) : Host.Outcome State Fault Refusal :=
  .next (if setDecayBad s .slew then addFault s .unmodelled else setDecay s .slew)

/-- DRV_UPDATE_STATUS (43_driver.md R214), raised by itself (log 6). -/
def execDrvUpdateStatus (s : State) : Host.Outcome State Fault Refusal := .next (orFault s (updateStatus s))

/-- DRV_POWER (43_driver.md R218), raised by itself (log 6). -/
def execDrvPower (on : Bool) (s : State) : Host.Outcome State Fault Refusal := .next (power s on)

/-- EV_STATUS_POLL (43_driver.md R217), a main-loop operation: nothing before a successful DRVINIT. -/
def execEvStatusPoll (s : State) : Host.Outcome State Fault Refusal :=
  .next (if s.driverReady then orFault (beginMainLoop s) (updateStatus (beginMainLoop s)) else beginMainLoop s)

end Sys2Proof.Machine
end

