-- ==== Sys2Proof/Machine/ModeFsm.lean ====
section
/-! DEFINITION. The microstep mode-switching machine (42_mode_fsm.md R170 to R183): the meanings of SETSLEW, GETMODE,
GETSLEWRATIO and the mode poll. -/

namespace Sys2Proof.Machine

open Sys2Proof

/-- SETSLEW (42_mode_fsm.md R171). -/
def execSetSlew (on : Bool) (s : State) : Host.Outcome State Fault Refusal :=
  hostCommand s 0x40#8 fun t => .done { t with slewHint := on } 0#32

/-- GETMODE (42_mode_fsm.md R172). -/
def execGetMode (s : State) : Host.Outcome State Fault Refusal :=
  hostCommand s 0x41#8 fun t => .done t (modeCode t.modeState)

/-- GETSLEWRATIO (42_mode_fsm.md R173). -/
def execGetSlewRatio (s : State) : Host.Outcome State Fault Refusal :=
  hostCommand s 0x42#8 fun t =>
    .done t (if t.params.modeSwitchSupported && t.driverReady then wordOfInt (homeSteps t) else 1#32)

/-- `settleDir()` (42_mode_fsm.md R178): toward the target, else in the direction of the requested frequency, else as
it was. -/
def settleDir (s : State) : State :=
  match signOf (s.targetSteps.toInt - s.motorSteps.toInt) with
  | .pos => setDir s .fwd
  | .neg => setDir s .rev
  | .zero =>
    match s.dirLatch with
    | .pos => setDir s .fwd
    | .neg => setDir s .rev
    | .zero => s

/-- ARM would use a timer parameter outside its domain (60_exceptions.md R285). -/
def armBad (s : State) : Bool := (classify s.freqBits).runs && !timerParamsOk s.params

/-- The last ATOMIC section of transition 5 (42_mode_fsm.md R176). -/
def enterSlewReady (s : State) : State :=
  match arm { settleDir s with handler := .fast } with
  | .ok t => { t with modeReq := false, modeState := .slewingReady }
  | .error f => addFault s f

/-- The last ATOMIC section of transition 7 (42_mode_fsm.md R176). -/
def enterTrackingReady (s : State) : State :=
  match arm { s with handler := .standard } with
  | .ok t => { t with modeState := .trackingReady }
  | .error f => addFault s f

/-- The poll in TRACKING: transition 1 (42_mode_fsm.md R175, R176). -/
def pollTracking (s : State) : State :=
  if s.slewHint && switchable s then { preemptPoint s with modeState := .slewingRequest } else s

/-- The poll in SLEWING_REQUEST: transition 2, whose guard re-reads `modeState` (42_mode_fsm.md R176). -/
def pollSlewingRequest (s : State) : State :=
  if s.slewHint then s
  else if (preemptPoint s).modeState = .slewingRequest then { preemptPoint s with modeState := .tracking }
  else preemptPoint s

/-- The driver reconfiguration of transition 5 and its final section, on a boundary (42_mode_fsm.md R175 #5). The model
faults it could raise are looked for before any of its effects (60_exceptions.md R286, log 9). -/
def switchToSlewing (s : State) : State :=
  if !atBoundary s then addFault s .gating
  else if setMicrostepBad s .slew || setDecayBad s .slew || armBad s then addFault s .unmodelled
  else enterSlewReady (preemptPoint (setDecay (setMicrostep s .slew) .slew))

/-- The poll in SLEWING_PAUSE: transitions 4 and 5 (42_mode_fsm.md R176, R177). -/
def pollSlewingPause (s : State) : State :=
  if s.slewHint then switchToSlewing (preemptPoint s)
  else { preemptPoint s with modeState := .tracking, modeReq := false }

/-- The poll in SLEWING_READY: transition 6 (42_mode_fsm.md R176). -/
def pollSlewingReady (s : State) : State := { preemptPoint s with modeState := .slewing }

/-- The handler swap of transition 7, on a boundary (42_mode_fsm.md R175 #7, R177). -/
def swapToStandard (s : State) : State :=
  if !atBoundary s then addFault s .gating
  else if armBad s then addFault s .unmodelled
  else enterTrackingReady (preemptPoint s)

/-- The poll in SLEWING: transition 7 (42_mode_fsm.md R176). -/
def pollSlewing (s : State) : State := if s.slewHint then s else swapToStandard (preemptPoint s)

/-- The reconfiguration of transition 8, on a boundary (42_mode_fsm.md R175 #8, R177). -/
def switchToTracking (s : State) : State :=
  if !atBoundary s then addFault s .gating
  else if setMicrostepBad s .track || setDecayBad s .track then addFault s .unmodelled
  else { preemptPoint (setDecay (setMicrostep s .track) .track) with modeState := .tracking }

/-- The poll in TRACKING_READY: transition 8 (42_mode_fsm.md R176). -/
def pollTrackingReady (s : State) : State := switchToTracking (preemptPoint s)

/-- The mode poll: at most one transition (42_mode_fsm.md R175, R176). -/
def modePoll (s : State) : State :=
  match s.modeState with
  | .tracking => pollTracking s
  | .slewingRequest => pollSlewingRequest s
  | .slewingPause => pollSlewingPause s
  | .slewingReady => pollSlewingReady s
  | .slewing => pollSlewing s
  | .trackingReady => pollTrackingReady s

/-- EV_MODE_POLL (42_mode_fsm.md R176), a main-loop operation. -/
def execEvModePoll (s : State) : Host.Outcome State Fault Refusal := .next (modePoll (beginMainLoop s))

end Sys2Proof.Machine
end

