-- ==== Sys2Proof/Machine/Position.lean ====
section
/-! DEFINITION. The meanings of the position and backlash commands (40_position.md R110 to R131). Each body is one ATOMIC
section (20_memory.md R66). -/

namespace Sys2Proof.Machine

open Sys2Proof

/-- RESETPOS (40_position.md R111). -/
def execResetPos (v : Word) (s : State) : Host.Outcome State Fault Refusal :=
  hostCommand s 0x10#8 fun t =>
    if !trackingModes t.modeState then .raise .busy
    else
      .done { t with
        motorSteps := v
        targetSteps := v
        backlashSteps := 0#32
        indexSteps := 0#32
        originSteps := v
        savedBacklash := if t.backlashDisabled then 0#32 else t.savedBacklash } 0#32

/-- SETINSTR (40_position.md R112). -/
def execSetInstr (v : Word) (s : State) : Host.Outcome State Fault Refusal :=
  hostCommand s 0x11#8 fun t =>
    storeChecked (v.toInt - t.motorSteps.toInt) fun w => { t with indexSteps := w }

/-- SETINSTRPARK (40_position.md R113). -/
def execSetInstrPark (v : Word) (m : BitVec 16) (s : State) : Host.Outcome State Fault Refusal :=
  hostCommand s 0x12#8 fun t =>
    if m = 0#16 then .raise .invalid
    else storeChecked (parkRound (v.toInt - t.motorSteps.toInt) m.toNat) fun w => { t with indexSteps := w }

/-- SETTARGET (40_position.md R114). -/
def execSetTarget (v : Word) (s : State) : Host.Outcome State Fault Refusal :=
  hostCommand s 0x13#8 fun t =>
    storeChecked (v.toInt - t.indexSteps.toInt) fun w => { t with targetSteps := w }

/-- SETTARGETPARK (40_position.md R115). -/
def execSetTargetPark (v : Word) (m : BitVec 16) (s : State) : Host.Outcome State Fault Refusal :=
  hostCommand s 0x14#8 fun t =>
    if m = 0#16 then .raise .invalid
    else storeChecked (parkRound (v.toInt - t.indexSteps.toInt) m.toNat) fun w => { t with targetSteps := w }

/-- SETSYNC (40_position.md R116). -/
def execSetSync (on : Bool) (s : State) : Host.Outcome State Fault Refusal :=
  hostCommand s 0x15#8 fun t =>
    .done { t with
      targetSteps := if on && !t.synchronized then t.motorSteps else t.targetSteps
      synchronized := on } 0#32

/-- BLDISABLE (40_position.md R117). -/
def execBlDisable (s : State) : Host.Outcome State Fault Refusal :=
  hostCommand s 0x16#8 fun t =>
    if !trackingModes t.modeState then .raise .busy
    else if t.backlashDisabled then .raise .unpaired
    else
      match chk (t.motorSteps.toInt + t.backlashSteps.toInt), chk (t.targetSteps.toInt + t.backlashSteps.toInt) with
      | some m, some g =>
        .done { t with
          motorSteps := m
          targetSteps := g
          savedBacklash := t.backlashSteps
          backlashSteps := 0#32
          backlashDisabled := true } 0#32
      | _, _ => .modelFault .overflow

/-- The offset that BLENABLE restores: `min(savedBacklash, backlashAmountSteps)` (40_position.md R118). -/
def restoredBacklash (s : State) : Int := min s.savedBacklash.toInt s.backlashAmountSteps.toInt

/-- BLENABLE (40_position.md R118). -/
def execBlEnable (s : State) : Host.Outcome State Fault Refusal :=
  hostCommand s 0x17#8 fun t =>
    if !trackingModes t.modeState then .raise .busy
    else if !t.backlashDisabled then .raise .unpaired
    else
      match chk (t.motorSteps.toInt - restoredBacklash t), chk (t.targetSteps.toInt - restoredBacklash t) with
      | some m, some g =>
        .done { t with
          motorSteps := m
          targetSteps := g
          backlashSteps := wordOfInt (restoredBacklash t)
          savedBacklash := 0#32
          backlashDisabled := false } 0#32
      | _, _ => .modelFault .overflow

/-- SETBLAMOUNT (40_position.md R119). -/
def execSetBlAmount (a : Word) (s : State) : Host.Outcome State Fault Refusal :=
  hostCommand s 0x18#8 fun t =>
    if !trackingModes t.modeState then .raise .busy
    else if a.toInt < 0 then .raise .invalid
    else if t.backlashDisabled = false ∧ a.toInt < t.backlashSteps.toInt then .raise .invalid
    else .done { t with backlashAmountSteps := a } 0#32

/-- MARKORIGIN (40_position.md R120). -/
def execMarkOrigin (s : State) : Host.Outcome State Fault Refusal :=
  hostCommand s 0x19#8 fun t => .done { t with originSteps := t.motorSteps } 0#32

/-- GETMOTOR (40_position.md R121). -/
def execGetMotor (s : State) : Host.Outcome State Fault Refusal :=
  hostCommand s 0x1A#8 fun t => .done t t.motorSteps

/-- GETINSTR (40_position.md R122). -/
def execGetInstr (s : State) : Host.Outcome State Fault Refusal :=
  hostCommand s 0x1B#8 fun t => valueChecked t (instrumentCoordinate t)

/-- GETTARGET (40_position.md R123). -/
def execGetTarget (s : State) : Host.Outcome State Fault Refusal :=
  hostCommand s 0x1C#8 fun t => valueChecked t (targetCoordinate t)

/-- GETBL (40_position.md R124). -/
def execGetBl (s : State) : Host.Outcome State Fault Refusal :=
  hostCommand s 0x1D#8 fun t => .done t t.backlashSteps

/-- `abs(targetSteps - motorSteps)` (40_position.md R125). -/
def targetDistance (s : State) : Int := ((s.targetSteps.toInt - s.motorSteps.toInt).natAbs : Int)

/-- `abs(motorSteps - originSteps)` (40_position.md R126). -/
def originDistance (s : State) : Int := ((s.motorSteps.toInt - s.originSteps.toInt).natAbs : Int)

/-- GETTDIST (40_position.md R125). -/
def execGetTDist (s : State) : Host.Outcome State Fault Refusal :=
  hostCommand s 0x1E#8 fun t => valueChecked t (targetDistance t)

/-- GETOTDIST (40_position.md R126). -/
def execGetOtDist (s : State) : Host.Outcome State Fault Refusal :=
  hostCommand s 0x1F#8 fun t => valueChecked t (min (originDistance t) (targetDistance t))

/-- GETRAMPDIR (40_position.md R127, 30_encoding.md R88). -/
def execGetRampDir (s : State) : Host.Outcome State Fault Refusal :=
  hostCommand s 0x20#8 fun t => .done t (signCode (signOf (t.targetSteps.toInt - t.originSteps.toInt)))

end Sys2Proof.Machine
end

