-- ==== Sys2Proof/Machine/Sequencer.lean ====
section
/-! DEFINITION. The meanings of the step sequencer's commands and of the two tick events (41_sequencer.md R140 to R156).
The handlers and ARM themselves are in Ops. -/

namespace Sys2Proof.Machine

open Sys2Proof

/-- The frequency pattern that SETFREQ keeps: the request, or 0 when it classifies as STOP (41_sequencer.md R141). -/
def acceptedFreq (fbits : Word) : Word := if (classify fbits).runs then fbits else 0#32

/-- SETFREQ (41_sequencer.md R141). -/
def execSetFreq (fbits : Word) (s : State) : Host.Outcome State Fault Refusal :=
  hostCommand s 0x30#8 fun t =>
    match arm { t with freqBits := acceptedFreq fbits } with
    | .ok u => .done u 0#32
    | .error f => .modelFault f

/-- GETFREQ (41_sequencer.md R145). -/
def execGetFreq (s : State) : Host.Outcome State Fault Refusal :=
  hostCommand s 0x31#8 fun t => .done t t.freqBits

/-- SETENABLE (41_sequencer.md R146): EN is powered before `enabled` is set, and released after it is cleared. T may step
between the two (00_scope.md R10, log 26). -/
def execSetEnable (on : Bool) (s : State) : Host.Outcome State Fault Refusal :=
  hostCommand s 0x32#8 fun t =>
    if on && !t.driverReady then .raise .invalid
    else if on then .done { preemptPoint (power t true) with enabled := true } 0#32
    else .done (power (preemptPoint { t with enabled := false }) false) 0#32

/-- EV_TICK_STD (41_sequencer.md R148): T's step while the standard handler is installed; T cannot take it otherwise
(R147, log 7). -/
def execEvTickStd (s : State) : Host.Outcome State Fault Refusal :=
  .next (if s.handler = .standard then takeTick s else s)

/-- EV_TICK_FAST (41_sequencer.md R152): T's step while the fast handler is installed; T cannot take it otherwise
(R147, log 7). -/
def execEvTickFast (s : State) : Host.Outcome State Fault Refusal :=
  .next (if s.handler = .fast then takeTick s else s)

end Sys2Proof.Machine
end

