-- ==== Sys2Proof/Machine/Dispatch.lean ====
section
/-! DEFINITION. The meaning of every instruction, one arm for each constructor of Instr. -/

namespace Sys2Proof.Machine

open Sys2Proof

def exec (i : Instr) (s : State) : Host.Outcome State Fault Refusal :=
  match i with
  | .resetPos v => Sys2Proof.Machine.execResetPos v s
  | .setInstr v => Sys2Proof.Machine.execSetInstr v s
  | .setInstrPark v m => Sys2Proof.Machine.execSetInstrPark v m s
  | .setTarget v => Sys2Proof.Machine.execSetTarget v s
  | .setTargetPark v m => Sys2Proof.Machine.execSetTargetPark v m s
  | .setSync on => Sys2Proof.Machine.execSetSync on s
  | .blDisable => Sys2Proof.Machine.execBlDisable s
  | .blEnable => Sys2Proof.Machine.execBlEnable s
  | .setBlAmount a => Sys2Proof.Machine.execSetBlAmount a s
  | .markOrigin => Sys2Proof.Machine.execMarkOrigin s
  | .getMotor => Sys2Proof.Machine.execGetMotor s
  | .getInstr => Sys2Proof.Machine.execGetInstr s
  | .getTarget => Sys2Proof.Machine.execGetTarget s
  | .getBl => Sys2Proof.Machine.execGetBl s
  | .getTDist => Sys2Proof.Machine.execGetTDist s
  | .getOtDist => Sys2Proof.Machine.execGetOtDist s
  | .getRampDir => Sys2Proof.Machine.execGetRampDir s
  | .setFreq fbits => Sys2Proof.Machine.execSetFreq fbits s
  | .getFreq => Sys2Proof.Machine.execGetFreq s
  | .setEnable on => Sys2Proof.Machine.execSetEnable on s
  | .setSlew on => Sys2Proof.Machine.execSetSlew on s
  | .getMode => Sys2Proof.Machine.execGetMode s
  | .getSlewRatio => Sys2Proof.Machine.execGetSlewRatio s
  | .drvInit => Sys2Proof.Machine.execDrvInit s
  | .valParam p v => Sys2Proof.Machine.execValParam p v s
  | .setParam p v => Sys2Proof.Machine.execSetParam p v s
  | .getParam p => Sys2Proof.Machine.execGetParam p s
  | .getStatus => Sys2Proof.Machine.execGetStatus s
  | .calibrate => Sys2Proof.Machine.execCalibrate s
  | .drvMsTrack => Sys2Proof.Machine.execDrvMsTrack s
  | .drvMsSlew => Sys2Proof.Machine.execDrvMsSlew s
  | .drvDecayTrack => Sys2Proof.Machine.execDrvDecayTrack s
  | .drvDecaySlew => Sys2Proof.Machine.execDrvDecaySlew s
  | .drvUpdateStatus => Sys2Proof.Machine.execDrvUpdateStatus s
  | .drvPower on => Sys2Proof.Machine.execDrvPower on s
  | .evTickStd => Sys2Proof.Machine.execEvTickStd s
  | .evTickFast => Sys2Proof.Machine.execEvTickFast s
  | .evModePoll => Sys2Proof.Machine.execEvModePoll s
  | .evStatusPoll => Sys2Proof.Machine.execEvStatusPoll s

end Sys2Proof.Machine
end

