-- ==== Sys2Proof/Machine/Fetch.lean ====
section
/-! DEFINITION. How a move of the schedule becomes an operation: the command port's decoding and its ILLEGAL response
(30_encoding.md R81, R85, R92), the block's own operations, and the timer's tick (R90). -/

namespace Sys2Proof.Machine

open Sys2Proof

/-- The response to a word that is no host command: ILLEGAL, decided from the word alone (60_exceptions.md R281). The
response carries the word's `OP` byte (log 28). -/
def illegalCommand (w : Command) (s : State) : Host.Outcome State Fault Refusal :=
  hostCommand s (fieldOp w) fun _ => .raise .illegal

/-- A word at the command port: its command, or ILLEGAL (30_encoding.md R80 to R92). -/
def runHostWord (w : Command) (s : State) : Host.Outcome State Fault Refusal :=
  match decodeHost w with
  | .ok i => exec i s
  | .error _ => illegalCommand w s

/-- An operation that the block raises itself, by its number (30_encoding.md R85). A number that names none is no
event (log 29). -/
def runRaisedWord (w : Command) (s : State) : Host.Outcome State Fault Refusal :=
  match decodeRaised w with
  | .ok i => exec i s
  | .error _ => .refused .notRaisable

/-- The event of one timer tick: TICK of 30_encoding.md R90, the installed handler's (41_sequencer.md R147). -/
def tickInstr (s : State) : Instr :=
  match s.handler with
  | .standard => .evTickStd
  | .fast => .evTickFast

/-- One move of the schedule. -/
def runSlot (slot : Slot) (s : State) : Host.Outcome State Fault Refusal :=
  match slot with
  | .host w => runHostWord w s
  | .raised w => runRaisedWord w s
  | .tick => exec (tickInstr s) s

/-- The move that issues a table word: by the host below 0xE0, by the block itself above (30_encoding.md R85). -/
def slotOfCommand (w : Command) : Slot := if isBlockOpcode w then .raised w else .host w

/-- The move that issues an instruction. -/
def slotOfInstr (i : Instr) : Slot := slotOfCommand (encode i)

end Sys2Proof.Machine
end

