-- ==== Sys2Proof/Machine/Step.lean ====
section
/-! DEFINITION. One step of the machine: the next move of the schedule, or no move (10_state.md R21, 20_memory.md R68,
log 2). -/

namespace Sys2Proof.Machine

open Sys2Proof

/-- The state whose schedule has given up its first move. -/
def State.withSchedule (s : State) (rest : List Slot) : State := { s with schedule := rest }

/-- One step: the agent that the schedule names makes its move. With an empty schedule no agent moves and nothing
changes: the block waits for its next command (70_reset_and_hazards.md R312). -/
def step (s : State) : Host.Outcome State Fault Refusal :=
  match s.schedule with
  | [] => .next s
  | slot :: rest => runSlot slot (s.withSchedule rest)

/-- `s` with the table word `w` (its low `nbits` bits, every bit above zero) as the very next move of the schedule. -/
def State.withFetchWord (s : State) (nbits w : Nat) : State :=
  s.withSchedule (slotOfCommand (BitVec.ofNat 64 (w % 2 ^ nbits)) :: s.schedule)

end Sys2Proof.Machine
end

