-- ==== Sys2Proof/Machine/System.lean ====
section
/-! DEFINITION. Several axes (60_exceptions.md R296, 45_bus.md R268): one block instance for each axis, with all of its own
state, in one list; parameter `N_AXES` is its length. A move of the system is a step of one axis (log 17). -/

namespace Sys2Proof.Machine

open Sys2Proof

/-- The block instances of a mount, and the axis of each move to come (the main loop serialises main-loop operations,
and ticks of different axes come in any order). -/
structure System where
  axes : List State
  turns : List Nat
deriving DecidableEq, Repr

/-- One move: the axis whose turn it is steps; no other axis changes. A turn of an axis that does not exist is no
move. -/
def systemStep (y : System) : Host.Outcome System Fault Refusal :=
  match y.turns with
  | [] => .next y
  | k :: rest =>
    match y.axes[k]? with
    | none => .next { y with turns := rest }
    | some s =>
      match step s with
      | .next t => .next { axes := y.axes.set k t, turns := rest }
      | .fault f => .fault f
      | .refused r => .refused r

end Sys2Proof.Machine
end

