-- ==== Sys2Proof/Safety.lean ====
section
/-! DEFINITION. What counts as a safe run, in the terms the statements use: no model fault, the invariants of
10_state.md R32, R41, R53 to R55 and 43_driver.md R196, and the fairness of the three agents (41_sequencer.md R155,
42_mode_fsm.md R181). -/

namespace Sys2Proof.Safety

open Sys2Proof Sys2Proof.Machine

/-- No model fault has been raised (60_exceptions.md R286). -/
abbrev FaultFree (s : State) : Prop := s.faults.none = true

/-- 10_state.md R41 and R53: `modeReq` holds exactly in SLEWING_PAUSE, and the fast handler is installed exactly in
SLEWING_READY and SLEWING. -/
abbrev ModeInv (s : State) : Prop :=
  (s.modeReq = true ↔ s.modeState = .slewingPause) ∧
    ((s.modeState = .slewingReady ∨ s.modeState = .slewing) ↔ s.handler = .fast)

/-- 10_state.md R25, R26, R55: the backlash counter lies within the travel in effect. -/
abbrev BacklashInv (s : State) : Prop :=
  0 ≤ s.backlashSteps.toInt ∧ s.backlashSteps.toInt ≤ amountEff s ∧ 0 ≤ s.backlashAmountSteps.toInt ∧
    0 ≤ s.savedBacklash.toInt

/-- The states from the gate to transition 8, in which the driver may be reconfigured or the handler swapped
(42_mode_fsm.md R179). -/
abbrev Switching (s : State) : Prop :=
  s.modeState = .slewingPause ∨ s.modeState = .slewingReady ∨ s.modeState = .slewing ∨ s.modeState = .trackingReady

/-- 10_state.md R54 and 42_mode_fsm.md R179: from the gate on the motor stands on a boundary; outside TRACKING the ratio
is above 1 and the driver is ready (R170). -/
abbrev GateInv (s : State) : Prop :=
  (Switching s → atBoundary s = true) ∧ (s.modeState ≠ .tracking → 1 < homeSteps s ∧ s.driverReady = true)

/-- The period that ARM gives for the frequency and handler of `s` (41_sequencer.md R143). -/
def armedPeriod (s : State) : Nat :=
  match classify s.freqBits with
  | .stop => 0
  | .run _ pNum pDen => periodOf s.params pNum pDen (armMult s)

/-- 10_state.md R30 to R33, R38: the sequencer's registers agree with the accepted frequency and the installed
handler. -/
abbrev SequencerInv (s : State) : Prop :=
  s.timerRunning = (classify s.freqBits).runs ∧
  s.dirLatch = (classify s.freqBits).dir ∧
  s.periodSub = armedPeriod s ∧
  (s.rearm = true → s.step = 0#32 ∧ s.pendingStep = wordOfInt (s.dirLatch.toInt * armMult s)) ∧
  (s.rearm = false → s.step = wordOfInt (s.dirLatch.toInt * armMult s)) ∧
  (s.graceTick = true → s.timerRunning = false) ∧
  (s.timerRunning = true → timerParamsOk s.params = true)

/-- 10_state.md R44 and 43_driver.md R198: a ready driver has a valid configuration. -/
abbrev ConfigInv (s : State) : Prop := s.driverReady = true → validateConfig s.params s.cfg = .ok

/-- All the invariants together. -/
abbrev Inv (s : State) : Prop := ModeInv s ∧ BacklashInv s ∧ GateInv s ∧ SequencerInv s ∧ ConfigInv s

/-- A run under an unbounded schedule: `moves n` is the move of step `n`, and `points n` gives the ticks at the preemption
points inside it (20_memory.md R67, R68). -/
def IsRun (moves : Nat → Slot) (points : Nat → List Nat) (states : Nat → State) : Prop :=
  ∀ n, runSlot (moves n) { states n with preempt := points n } = .next (states (n + 1))

/-- The move is a step that T takes at `s` (41_sequencer.md R147): a tick of the installed handler, while T is enabled. A
tick event that T cannot take is no step of T (log 7). -/
def isTickOf (s : State) : Slot → Bool
  | .tick => tickEnabled s
  | .raised w => match decodeRaised w with
    | .ok .evTickStd => s.handler == .standard && tickEnabled s
    | .ok .evTickFast => s.handler == .fast && tickEnabled s
    | _ => false
  | .host _ => false

/-- T took a step at one of the preemption points that the move from `s` to `t` passed: a count above 0 was used up while
the timer ran. (Inside a main-loop operation there is no grace tick, and no point follows a write of `timerRunning`.) -/
def ticksInside (s t : State) : Bool :=
  s.timerRunning && (s.preempt.take (s.preempt.length - t.preempt.length)).any (fun n => decide (0 < n))

/-- T took a step in the move `slot` from `s` to `t`, as the move itself or inside it. -/
def tStepped (slot : Slot) (s t : State) : Bool := isTickOf s slot || ticksInside s t

/-- The move is a step of agent P. -/
def isModePoll : Slot → Bool
  | .raised w => decide (decodeRaised w = .ok .evModePoll)
  | .host _ => false
  | .tick => false

/-- The move is a step of agent S. -/
def isStatusPoll : Slot → Bool
  | .raised w => decide (decodeRaised w = .ok .evStatusPoll)
  | .host _ => false
  | .tick => false

/-- The move is a host command. -/
def isHostMove : Slot → Bool
  | .host _ => true
  | .raised _ => false
  | .tick => false

/-- Weak fairness of T (41_sequencer.md R155): if the timer runs from some point on, T steps infinitely often. -/
def FairTick (moves : Nat → Slot) (points : Nat → List Nat) (states : Nat → State) : Prop :=
  (∃ n, ∀ m, n ≤ m → (states m).timerRunning = true) →
    ∀ n, ∃ m, n ≤ m ∧ tStepped (moves m) { states m with preempt := points m } (states (m + 1)) = true

/-- Weak fairness of P and S (42_mode_fsm.md R181): if the host issues finitely many commands, both step infinitely
often. -/
def FairPolls (moves : Nat → Slot) : Prop :=
  (∃ n, ∀ m, n ≤ m → isHostMove (moves m) = false) →
    ∀ n, (∃ m, n ≤ m ∧ isModePoll (moves m) = true) ∧ ∃ m, n ≤ m ∧ isStatusPoll (moves m) = true

/-- A move the machine makes in operation: not an internal driver operation raised by itself, which only DRVINIT,
SETENABLE and the polls raise (30_encoding.md R85, log 6). -/
def agentMove : Slot → Bool
  | .host _ => true
  | .tick => true
  | .raised w => 0xF0 ≤ (fieldOp w).toNat

/-- `z` is in the range of an `s32` counter (00_scope.md R9). -/
abbrev InS32 (z : Int) : Prop := -2147483648 ≤ z ∧ z ≤ 2147483647

/-- `s` after a host command that answered with a response and wrote nothing else: the grace tick is lost
(41_sequencer.md R144) and the response is in the history (30_encoding.md R82). -/
def answered (s : State) (op : Byte) (r : Result) (value : Word) : State :=
  { s with graceTick := false, history := s.history ++ [.resp op r value] }

/-- Every parameter lies in its domain (00_scope.md R6, 60_exceptions.md R285). -/
structure ParamsOk (p : Params) : Prop where
  kSub : 1 ≤ p.kSub
  periodMin : 1 ≤ p.periodMinSub
  rsenseNum : 0 < p.rsense.num
  rsenseDen : 0 < p.rsense.den
  iholdLow : 0 ≤ p.iholdDelay
  iholdHigh : p.iholdDelay ≤ 15
  regAddr : ∀ r : TmcReg, p.regAddr.addr r ≤ 0x7F
  codes : ∀ m : Int, -1 ≤ codeTableEntry p.genericCodeTable m ∧ codeTableEntry p.genericCodeTable m ≤ 7

/-- `t` differs from `s` in nothing but what the tick handlers write (10_state.md R51, R52, 41_sequencer.md R148, R152)
and the flag of the grace tick. -/
def OnlyTickState (s t : State) : Prop :=
  t = { s with
    motorSteps := t.motorSteps, targetSteps := t.targetSteps, backlashSteps := t.backlashSteps, dir := t.dir,
    step := t.step, rearm := t.rearm, modeState := t.modeState, modeReq := t.modeReq, graceTick := t.graceTick,
    faults := t.faults, history := t.history }

/-- `t` differs from `s` in nothing but what ticks write, what a driver operation writes (shadows and pins), and the
model's own records of the ticks and chip replies used up. -/
def OnlyDriverAndTicks (s t : State) : Prop :=
  t = { s with
    motorSteps := t.motorSteps, targetSteps := t.targetSteps, backlashSteps := t.backlashSteps, dir := t.dir,
    step := t.step, rearm := t.rearm, modeState := t.modeState, modeReq := t.modeReq, graceTick := t.graceTick,
    faults := t.faults, history := t.history, shadows := t.shadows, pins := t.pins, oracle := t.oracle,
    preempt := t.preempt }

/-- `t` differs from `s` in nothing but what a driver operation writes and the chip replies it used up: no tick came
between. -/
def OnlyDriver (s t : State) : Prop :=
  t = { s with shadows := t.shadows, pins := t.pins, oracle := t.oracle, history := t.history }

/-- The event is a step pulse. -/
def isPulse : Event → Bool
  | .pulse _ => true
  | .pin _ _ => false
  | .txn _ => false
  | .resp _ _ _ => false

/-- The event is a bus transaction. -/
def isTxn : Event → Bool
  | .pulse _ => false
  | .pin _ _ => false
  | .txn _ => true
  | .resp _ _ _ => false

/-- The event is the response to a host command. -/
def isResp : Event → Bool
  | .pulse _ => false
  | .pin _ _ => false
  | .txn _ => false
  | .resp _ _ _ => true

/-- The frame that an event sends on SPI, if it does. -/
def spiFrameOf : Event → Option (BitVec 40)
  | .txn (.spi out _) => some out
  | .txn (.uart _ _) => none
  | .pulse _ => none
  | .pin _ _ => none
  | .resp _ _ _ => none

/-- The datagram that an event sends on the UART, if it does. -/
def uartBytesOf : Event → Option (List Byte)
  | .txn (.spi _ _) => none
  | .txn (.uart out _) => some out
  | .pulse _ => none
  | .pin _ _ => none
  | .resp _ _ _ => none

/-- The frames sent on SPI, in order. -/
def spiSent (h : List Event) : List (BitVec 40) := h.filterMap spiFrameOf

/-- The datagrams sent on the UART, in order. -/
def uartSent (h : List Event) : List (List Byte) := h.filterMap uartBytesOf

/-- The events of one step in direction `d`: the DIR pin if it changes, then the pulse (41_sequencer.md R149). -/
def stepEvents (s : State) (d : Dir) : List Event :=
  (if s.dir = d then [] else [.pin .dir (dirLevel s.params d)]) ++ [.pulse d]

/-- The microstep code of a phase (43_driver.md R194, R206). -/
def codeOf (s : State) (x : Phase) : Word := wordOfInt (subdivisionsToCode s.params (msOf s.cfg x))

/-- A shadow that holds a value that was sent (45_bus.md R262). -/
def sent (v : Word) : Shadow := { value := v, valid := true }

/-- The frames that a register write sends on SPI: one, or none when the shadow suppresses it (45_bus.md R262). -/
def spiSends (s : State) (r : TmcReg) (v : Word) : List (BitVec 40) :=
  if writeSuppressed s r v then [] else [spiWriteFrame s.params r v]

/-- The datagrams that a register write sends on the UART (45_bus.md R262). -/
def uartSends (s : State) (r : TmcReg) (v : Word) : List (List Byte) :=
  if writeSuppressed s r v then [] else [uartWrite s.params r v]

/-- The driver pin that an event drives, and its level: EN, M0 to M2 or DECAY, the pins that no tick drives. -/
def driverPinOf : Event → Option (Pin × Level)
  | .pin .dir _ => none
  | .pin .en l => some (.en, l)
  | .pin .m0 l => some (.m0, l)
  | .pin .m1 l => some (.m1, l)
  | .pin .m2 l => some (.m2, l)
  | .pin .decay l => some (.decay, l)
  | .pulse _ => none
  | .txn _ => none
  | .resp _ _ _ => none

/-- The PIN events of the driver pins, in order. -/
def driverPins (h : List Event) : List (Pin × Level) := h.filterMap driverPinOf

/-- The PIN events that driving a pin gives: one, or none when it stands at the level (43_driver.md R210). -/
def pinSends (s : State) (p : Pin) (l : Level) : List (Pin × Level) := if pinLevel s p = some l then [] else [(p, l)]

/-- The level of bit `n` of a microstep code (43_driver.md R206). -/
def bitLevel (c : Word) (n : Nat) : Level := if c.getLsbD n then .high else .low

/-- The exact magnitude of a finite binary32 pattern, by IEEE 754 (00_scope.md R8). -/
def f32Magnitude (f : Word) : ℚ :=
  if f32Exponent f = 0 then (f32Fraction f : ℚ) * (2 : ℚ) ^ (-149 : ℤ)
  else ((f32Fraction f : ℚ) + 8388608) * (2 : ℚ) ^ ((f32Exponent f : ℤ) - 150)

/-- The results that 60_exceptions.md R282 allows a command, ILLEGAL apart: it is decided from the word alone (R281). -/
def allowedResults : Instr → List Result
  | .resetPos _ => [.ok, .busy]
  | .setInstr _ => [.ok, .fault]
  | .setInstrPark _ _ => [.ok, .invalid, .fault]
  | .setTarget _ => [.ok, .fault]
  | .setTargetPark _ _ => [.ok, .invalid, .fault]
  | .setSync _ => [.ok]
  | .blDisable => [.ok, .busy, .unpaired, .fault]
  | .blEnable => [.ok, .busy, .unpaired, .fault]
  | .setBlAmount _ => [.ok, .busy, .invalid]
  | .markOrigin => [.ok]
  | .getMotor => [.ok]
  | .getInstr => [.ok, .fault]
  | .getTarget => [.ok, .fault]
  | .getBl => [.ok]
  | .getTDist => [.ok, .fault]
  | .getOtDist => [.ok, .fault]
  | .getRampDir => [.ok]
  | .setFreq _ => [.ok, .fault]
  | .getFreq => [.ok]
  | .setEnable _ => [.ok, .invalid]
  | .setSlew _ => [.ok]
  | .getMode => [.ok]
  | .getSlewRatio => [.ok]
  | .drvInit => [.ok, .busy, .invalid, .unsupported, .fault]
  | .valParam _ _ => [.ok, .invalid, .unsupported, .fault]
  | .setParam _ _ => [.ok, .busy, .invalid, .unsupported, .fault]
  | .getParam _ => [.ok]
  | .getStatus => [.ok]
  | .calibrate => [.refused]
  | .drvMsTrack => []
  | .drvMsSlew => []
  | .drvDecayTrack => []
  | .drvDecaySlew => []
  | .drvUpdateStatus => []
  | .drvPower _ => []
  | .evTickStd => []
  | .evTickFast => []
  | .evModePoll => []
  | .evStatusPoll => []

end Sys2Proof.Safety
end

