-- ==== Sys2Proof/Certificates/Slice0/Obligations.lean ====
section
/-! DEFINITION. The statements for the provers, one `def Obligations.<Name> : Prop` each. `Safety.answered s op r v` is `s`
with the grace tick lost and one response added, and nothing else changed; every equation with a whole record as its right
side is its instruction's frame as well. -/

section Statements

open Sys2Proof Sys2Proof.Machine Sys2Proof.Safety

/-! ### Encoding -/

/-- 30_encoding.md R80, R81, R84, R85: decoding the word of a well-formed instruction gives the instruction back, from
the word and from its eight bytes, at the port that may issue it. -/
def Obligations.DecodeEncodeRoundTrip : Prop :=
  ∀ i : Instr, i.wf = true →
    decodeTable (encode i) = .ok i ∧ decodeBytes (bytesOfCommand (encode i)) = .ok i ∧
      (i.isHostCommand = true → decodeHost (encode i) = .ok i) ∧
      (i.isHostCommand = false → decodeRaised (encode i) = .ok i)

/-- 30_encoding.md R81, R84, R91: a word that the command port accepts is the word of the command it is read as, so no
other bit of it is set. -/
def Obligations.AcceptedHostWordIsItsEncoding : Prop :=
  ∀ (w : Command) (i : Instr), decodeHost w = .ok i → encode i = w ∧ i.wf = true ∧ i.isHostCommand = true

/-- 30_encoding.md R81, R85, R92: every other host word, and every host word in the block's own opcode range, answers
ILLEGAL and changes nothing else (that the response carries the word's `OP` byte is log 28, that the grace tick is lost
is log 8). -/
def Obligations.OtherHostWordsAnswerIllegal : Prop :=
  ∀ (w : Command) (s : State),
    ((∀ i : Instr, i.wf = true → i.isHostCommand = true → encode i ≠ w) →
      runHostWord w s = .next (answered s (fieldOp w) .illegal 0#32)) ∧
    (0xE0 ≤ (fieldOp w).toNat → runHostWord w s = .next (answered s (fieldOp w) .illegal 0#32))

/-- 30_encoding.md R84, R85, R81, R92: seven words written out from the tables and what they stand for, and five words
that the operand forms, the unlisted opcodes and the block's own range make no instruction of the table or of the port. -/
def Obligations.WrittenOutWordsDecode : Prop :=
  decodeTable 0x10000000000003E8#64 = .ok (.resetPos 1000#32) ∧
  decodeTable 0x1200001000001388#64 = .ok (.setInstrPark 5000#32 16#16) ∧
  decodeTable 0x1501000000000000#64 = .ok (.setSync true) ∧
  decodeTable 0x3000000042C80000#64 = .ok (.setFreq 0x42C80000#32) ∧
  decodeTable 0x5205000000000004#64 = .ok (.setParam 5#3 4#32) ∧
  decodeTable 0x5306000000000000#64 = .ok (.getParam 6#3) ∧
  decodeTable 0x5307000000000000#64 = .error .pidOutOfRange ∧
  decodeTable 0x1502000000000000#64 = .error .boolOutOfRange ∧
  decodeTable 0x1600000000000001#64 = .error .reservedField ∧
  decodeTable 0x2100000000000000#64 = .error .unlistedOpcode ∧
  decodeTable 0xF200000000000000#64 = .ok .evModePoll ∧
  decodeHost 0xF200000000000000#64 = .error .blockOpcode

/-- 30_encoding.md R85, R90, R91, R92, 41_sequencer.md R147, 60_exceptions.md R291: a step runs the decoded instruction. The
first move of the schedule is taken off, and the step is `exec` of what it decodes to; a tick runs the handler that `handler`
selects. Model choices: the schedule, and that with no move nothing changes (log 2); that the schedule may raise an operation
by itself (log 6); the `OP` byte of the ILLEGAL response (log 28) and the grace tick it loses (log 8); that `withFetchWord`
stands for the load of a program (log 5). -/
def Obligations.StepRunsDecodedInstruction : Prop :=
  ∀ (s : State) (rest : List Slot),
    (∀ w i, decodeTable w = .ok i → s.schedule = slotOfCommand w :: rest → step s = exec i { s with schedule := rest }) ∧
    (∀ w i, decodeHost w = .ok i → s.schedule = .host w :: rest → step s = exec i { s with schedule := rest }) ∧
    (∀ w i, decodeRaised w = .ok i → s.schedule = .raised w :: rest → step s = exec i { s with schedule := rest }) ∧
    (∀ w e, decodeHost w = .error e → s.schedule = .host w :: rest →
      step s = .next (answered { s with schedule := rest } (fieldOp w) .illegal 0#32)) ∧
    (s.schedule = .tick :: rest →
      step s = exec (if s.handler = .fast then .evTickFast else .evTickStd) { s with schedule := rest }) ∧
    (s.schedule = [] → step s = .next s) ∧
    (∀ w i, decodeTable w = .ok i → step (s.withFetchWord 64 w.toNat) = exec i s)

/-! ### Reset -/

/-- 10_state.md R56: the reset value of every element, for every choice of the parameters. -/
def Obligations.ResetLeavesTableValues : Prop :=
  ∀ p : Params,
    let s := State.resetWith p
    s.params = p ∧ s.motorSteps = 0#32 ∧ s.targetSteps = 0#32 ∧ s.indexSteps = 0#32 ∧ s.originSteps = 0#32 ∧
    s.backlashSteps = 0#32 ∧ s.backlashAmountSteps = 0#32 ∧ s.backlashDisabled = false ∧ s.savedBacklash = 0#32 ∧
    s.freqBits = 0#32 ∧ s.timerRunning = false ∧ s.periodSub = 0 ∧ s.step = 0#32 ∧ s.pendingStep = 0#32 ∧
    s.rearm = false ∧ s.dirLatch = .zero ∧ s.dir = .none ∧ s.synchronized = false ∧ s.handler = .standard ∧
    s.enabled = false ∧ pinLevel s .en = some p.enActiveLevel.other ∧ s.graceTick = false ∧ s.modeState = .tracking ∧
    s.slewHint = false ∧ s.modeReq = false ∧ s.cfg = p.cfgInit ∧ s.driverReady = false ∧
    (∀ r, shadowOf s.shadows r = { value := 0#32, valid := false }) ∧
    s.status = { active := false, outputA := { shortToGround := false, openLoad := false },
                 outputB := { shortToGround := false, openLoad := false }, overTemperatureWarning := false,
                 overTemperature := false, standstill := false, fault := false } ∧
    s.lastDrvStatus = 0#32 ∧ s.lastSpiStatus = 0#8 ∧ pinLevel s .dir = none ∧ pinLevel s .m0 = none ∧
    pinLevel s .m1 = none ∧ pinLevel s .m2 = none ∧ pinLevel s .decay = none ∧
    s.faults = { overflow := false, gating := false, unmodelled := false } ∧
    s.history = [.pin .en p.enActiveLevel.other]

/-- The reset state meets every invariant, for every choice of the parameters. -/
def Obligations.ResetMeetsInvariants : Prop := ∀ p : Params, Inv (State.resetWith p) ∧ FaultFree (State.resetWith p)

/-! ### Position and backlash commands -/

/-- 40_position.md R111, R116, R120, 70_reset_and_hazards.md R318: RESETPOS where it is accepted, SETSYNC and
MARKORIGIN. -/
def Obligations.ResetSyncAndOriginWrite : Prop :=
  ∀ (v : Word) (on : Bool) (s : State),
    ((s.modeState = .tracking ∨ s.modeState = .slewingRequest) →
      exec (.resetPos v) s = .next (answered { s with
        motorSteps := v, targetSteps := v, backlashSteps := 0#32, indexSteps := 0#32, originSteps := v,
        savedBacklash := if s.backlashDisabled = true then 0#32 else s.savedBacklash } 0x10#8 .ok 0#32)) ∧
    exec (.setSync on) s = .next (answered { s with
      targetSteps := if on = true ∧ s.synchronized = false then s.motorSteps else s.targetSteps
      synchronized := on } 0x15#8 .ok 0#32) ∧
    exec .markOrigin s = .next (answered { s with originSteps := s.motorSteps } 0x19#8 .ok 0#32)

/-- 40_position.md R112, R114: SETINSTR and SETTARGET, with their overflow. -/
def Obligations.CoordinateWritesStoreDifference : Prop :=
  ∀ (v : Word) (s : State),
    (InS32 (v.toInt - s.motorSteps.toInt) →
      exec (.setInstr v) s =
        .next (answered { s with indexSteps := BitVec.ofInt 32 (v.toInt - s.motorSteps.toInt) } 0x11#8 .ok 0#32)) ∧
    (¬InS32 (v.toInt - s.motorSteps.toInt) →
      exec (.setInstr v) s =
        .next (answered { s with faults := { s.faults with overflow := true } } 0x11#8 .fault 0#32)) ∧
    (InS32 (v.toInt - s.indexSteps.toInt) →
      exec (.setTarget v) s =
        .next (answered { s with targetSteps := BitVec.ofInt 32 (v.toInt - s.indexSteps.toInt) } 0x13#8 .ok 0#32)) ∧
    (¬InS32 (v.toInt - s.indexSteps.toInt) →
      exec (.setTarget v) s =
        .next (answered { s with faults := { s.faults with overflow := true } } 0x13#8 .fault 0#32))

/-- 40_position.md R113, R115: SETINSTRPARK and SETTARGETPARK, with a modulo of 0 and their overflow. -/
def Obligations.ParkWritesStoreRounding : Prop :=
  ∀ (v : Word) (m : BitVec 16) (s : State),
    (m = 0#16 → exec (.setInstrPark v m) s = .next (answered s 0x12#8 .invalid 0#32) ∧
      exec (.setTargetPark v m) s = .next (answered s 0x14#8 .invalid 0#32)) ∧
    (m ≠ 0#16 → InS32 (parkRound (v.toInt - s.motorSteps.toInt) m.toNat) →
      exec (.setInstrPark v m) s = .next (answered
        { s with indexSteps := BitVec.ofInt 32 (parkRound (v.toInt - s.motorSteps.toInt) m.toNat) } 0x12#8 .ok 0#32)) ∧
    (m ≠ 0#16 → ¬InS32 (parkRound (v.toInt - s.motorSteps.toInt) m.toNat) →
      exec (.setInstrPark v m) s =
        .next (answered { s with faults := { s.faults with overflow := true } } 0x12#8 .fault 0#32)) ∧
    (m ≠ 0#16 → InS32 (parkRound (v.toInt - s.indexSteps.toInt) m.toNat) →
      exec (.setTargetPark v m) s = .next (answered
        { s with targetSteps := BitVec.ofInt 32 (parkRound (v.toInt - s.indexSteps.toInt) m.toNat) } 0x14#8 .ok 0#32)) ∧
    (m ≠ 0#16 → ¬InS32 (parkRound (v.toInt - s.indexSteps.toInt) m.toNat) →
      exec (.setTargetPark v m) s =
        .next (answered { s with faults := { s.faults with overflow := true } } 0x14#8 .fault 0#32))

/-- 40_position.md R128: park rounding is the nearest multiple of `4m`, a tie going away from zero, less `2m`. -/
def Obligations.ParkRoundIsNearestMultiple : Prop :=
  ∀ (raw : Int) (m : Nat), 0 < m →
    ∃ k : Int, parkRound raw m = 4 * (m : Int) * k - 2 * (m : Int) ∧
      |raw - 4 * (m : Int) * k| ≤ 2 * (m : Int) ∧
      (|raw - 4 * (m : Int) * k| = 2 * (m : Int) → |raw| < |4 * (m : Int) * k|)

/-- 40_position.md R130: park rounding is idempotent. Where the first write was accepted, whatever happens in between to the
rest of the state, `targetSteps` (`indexSteps`) included, the second leaves what the first left; where it was refused, it
wrote nothing and a second one writes nothing either. -/
def Obligations.ParkWritesAreIdempotent : Prop :=
  ∀ (v : Word) (m : BitVec 16) (s t u u' : State),
    (exec (.setTargetPark v m) s = .next t → u.indexSteps = s.indexSteps →
      (m ≠ 0#16 ∧ InS32 (parkRound (v.toInt - s.indexSteps.toInt) m.toNat)) ∨ u.targetSteps = t.targetSteps →
      exec (.setTargetPark v m) u = .next u' → u'.targetSteps = t.targetSteps) ∧
    (exec (.setInstrPark v m) s = .next t → u.motorSteps = s.motorSteps →
      (m ≠ 0#16 ∧ InS32 (parkRound (v.toInt - s.motorSteps.toInt) m.toNat)) ∨ u.indexSteps = t.indexSteps →
      exec (.setInstrPark v m) u = .next u' → u'.indexSteps = t.indexSteps)

/-- 40_position.md R129: what SETINSTR and SETTARGET store is what GETINSTR and GETTARGET return. -/
def Obligations.CoordinateRoundTrip : Prop :=
  ∀ (v : Word) (s : State),
    (InS32 (v.toInt - s.motorSteps.toInt) →
      ∃ t, exec (.setInstr v) s = .next t ∧
        ∀ u : State, u.motorSteps = t.motorSteps → u.indexSteps = t.indexSteps →
          exec .getInstr u = .next (answered u 0x1B#8 .ok v)) ∧
    (InS32 (v.toInt - s.indexSteps.toInt) →
      ∃ t, exec (.setTarget v) s = .next t ∧
        ∀ u : State, u.targetSteps = t.targetSteps → u.indexSteps = t.indexSteps →
          exec .getTarget u = .next (answered u 0x1C#8 .ok v))

/-- 40_position.md R117, R118: BLDISABLE folds the backlash into both counters and BLENABLE takes the saved backlash out
again, within the configured amount. Neither changes the distance to the target, and where 10_state.md R55 holds neither
changes the commanded position, so neither causes motion. -/
def Obligations.BacklashFoldAndRestore : Prop :=
  ∀ s : State, (s.modeState = .tracking ∨ s.modeState = .slewingRequest) →
    let saved := s.backlashSteps.toInt
    let b := min s.savedBacklash.toInt s.backlashAmountSteps.toInt
    let ovf := { s with faults := { s.faults with overflow := true } }
    (s.backlashDisabled = false → InS32 (s.motorSteps.toInt + saved) → InS32 (s.targetSteps.toInt + saved) →
      ∃ t, exec .blDisable s = .next t ∧
        t = answered { s with
          motorSteps := BitVec.ofInt 32 (s.motorSteps.toInt + saved)
          targetSteps := BitVec.ofInt 32 (s.targetSteps.toInt + saved)
          savedBacklash := s.backlashSteps, backlashSteps := 0#32, backlashDisabled := true } 0x16#8 .ok 0#32 ∧
        commandedPosition t = commandedPosition s ∧
        t.targetSteps.toInt - t.motorSteps.toInt = s.targetSteps.toInt - s.motorSteps.toInt ∧ amountEff t = 0) ∧
    (s.backlashDisabled = false → ¬(InS32 (s.motorSteps.toInt + saved) ∧ InS32 (s.targetSteps.toInt + saved)) →
      exec .blDisable s = .next (answered ovf 0x16#8 .fault 0#32)) ∧
    (s.backlashDisabled = true → InS32 (s.motorSteps.toInt - b) → InS32 (s.targetSteps.toInt - b) →
      ∃ t, exec .blEnable s = .next t ∧
        t = answered { s with
          motorSteps := BitVec.ofInt 32 (s.motorSteps.toInt - b)
          targetSteps := BitVec.ofInt 32 (s.targetSteps.toInt - b)
          backlashSteps := BitVec.ofInt 32 b, savedBacklash := 0#32, backlashDisabled := false } 0x17#8 .ok 0#32 ∧
        (BacklashInv s → commandedPosition t = commandedPosition s) ∧
        t.targetSteps.toInt - t.motorSteps.toInt = s.targetSteps.toInt - s.motorSteps.toInt) ∧
    (s.backlashDisabled = true → ¬(InS32 (s.motorSteps.toInt - b) ∧ InS32 (s.targetSteps.toInt - b)) →
      exec .blEnable s = .next (answered ovf 0x17#8 .fault 0#32))

/-- 40_position.md R119: SETBLAMOUNT, with the amounts it refuses. -/
def Obligations.SetBlAmountKeepsTravelInside : Prop :=
  ∀ (a : Word) (s : State), (s.modeState = .tracking ∨ s.modeState = .slewingRequest) →
    (0 ≤ a.toInt → (s.backlashDisabled = true ∨ s.backlashSteps.toInt ≤ a.toInt) →
      exec (.setBlAmount a) s = .next (answered { s with backlashAmountSteps := a } 0x18#8 .ok 0#32)) ∧
    (a.toInt < 0 → exec (.setBlAmount a) s = .next (answered s 0x18#8 .invalid 0#32)) ∧
    (s.backlashDisabled = false → a.toInt < s.backlashSteps.toInt →
      exec (.setBlAmount a) s = .next (answered s 0x18#8 .invalid 0#32))

/-- 40_position.md R121 to R127: the read accessors, with their overflow. They write no state. -/
def Obligations.PositionReadersAnswer : Prop :=
  ∀ s : State,
    let inst := s.motorSteps.toInt + s.indexSteps.toInt
    let targ := s.targetSteps.toInt + s.indexSteps.toInt
    let dist := |s.targetSteps.toInt - s.motorSteps.toInt|
    let near := min |s.motorSteps.toInt - s.originSteps.toInt| |s.targetSteps.toInt - s.motorSteps.toInt|
    let ovf := { s with faults := { s.faults with overflow := true } }
    exec .getMotor s = .next (answered s 0x1A#8 .ok s.motorSteps) ∧
    exec .getBl s = .next (answered s 0x1D#8 .ok s.backlashSteps) ∧
    exec .getRampDir s = .next (answered s 0x20#8 .ok
      (if s.originSteps.toInt < s.targetSteps.toInt then 1#32
        else if s.targetSteps.toInt < s.originSteps.toInt then 0xFFFFFFFF#32 else 0#32)) ∧
    (InS32 inst → exec .getInstr s = .next (answered s 0x1B#8 .ok (BitVec.ofInt 32 inst))) ∧
    (¬InS32 inst → exec .getInstr s = .next (answered ovf 0x1B#8 .fault 0#32)) ∧
    (InS32 targ → exec .getTarget s = .next (answered s 0x1C#8 .ok (BitVec.ofInt 32 targ))) ∧
    (¬InS32 targ → exec .getTarget s = .next (answered ovf 0x1C#8 .fault 0#32)) ∧
    (InS32 dist → exec .getTDist s = .next (answered s 0x1E#8 .ok (BitVec.ofInt 32 dist))) ∧
    (¬InS32 dist → exec .getTDist s = .next (answered ovf 0x1E#8 .fault 0#32)) ∧
    (InS32 near → exec .getOtDist s = .next (answered s 0x1F#8 .ok (BitVec.ofInt 32 near))) ∧
    (¬InS32 near → exec .getOtDist s = .next (answered ovf 0x1F#8 .fault 0#32))

/-- 40_position.md R110, 42_mode_fsm.md R183, 60_exceptions.md R281, 43_driver.md R202: the commands that are refused
during a switch, the two that are refused for want of a pair, and DRVINIT of a configuration that is not valid. -/
def Obligations.CommandsAreRefusedByState : Prop :=
  ∀ (v a : Word) (p : BitVec 3) (s : State),
    (¬(s.modeState = .tracking ∨ s.modeState = .slewingRequest) →
      exec (.resetPos v) s = .next (answered s 0x10#8 .busy 0#32) ∧
      exec .blDisable s = .next (answered s 0x16#8 .busy 0#32) ∧
      exec .blEnable s = .next (answered s 0x17#8 .busy 0#32) ∧
      exec (.setBlAmount a) s = .next (answered s 0x18#8 .busy 0#32)) ∧
    (s.modeState ≠ .tracking →
      exec .drvInit s = .next (answered s 0x50#8 .busy 0#32) ∧
      (pidOk p = true → exec (.setParam p v) s = .next (answered s 0x52#8 .busy 0#32))) ∧
    ((s.modeState = .tracking ∨ s.modeState = .slewingRequest) →
      (s.backlashDisabled = true → exec .blDisable s = .next (answered s 0x16#8 .unpaired 0#32)) ∧
      (s.backlashDisabled = false → exec .blEnable s = .next (answered s 0x17#8 .unpaired 0#32))) ∧
    (s.modeState = .tracking →
      (∀ r, validateConfig s.params s.cfg = .refuse r →
        exec .drvInit s = .next (answered { s with driverReady := false } 0x50#8 r 0#32)) ∧
      (validateConfig s.params s.cfg = .unmodelled →
        exec .drvInit s =
          .next (answered { s with faults := { s.faults with unmodelled := true } } 0x50#8 .fault 0#32)))

/-! ### Every host command -/

/-- 30_encoding.md R82, 60_exceptions.md R280, R282, R300: every host command completes with exactly one response, after
every event it caused, with a result that the table allows, and with value 0 unless the result is OK. -/
def Obligations.HostCommandsAnswerOnce : Prop :=
  ∀ (i : Instr) (s : State), i.wf = true → i.isHostCommand = true →
    ∃ (t : State) (evs : List Event) (r : Result) (v : Word), exec i s = .next t ∧
      t.history = s.history ++ evs ++ [.resp (opcode i) r v] ∧ (∀ e ∈ evs, isResp e = false) ∧
      r ∈ allowedResults i ∧ (r ≠ .ok → v = 0#32)

/-- 60_exceptions.md R283, R286: a host command that does not answer OK writes nothing but its response; a FAULT adds one
model fault, and a DRVINIT refused for its configuration clears `driverReady`. (That the grace tick is lost whatever the
result is log 8, that BUSY leaves `driverReady` is log 11.) -/
def Obligations.FailedCommandsWriteNoState : Prop :=
  ∀ (i : Instr) (s t : State) (h : List Event) (r : Result) (v : Word), i.wf = true → i.isHostCommand = true →
    exec i s = .next t → t.history = h ++ [.resp (opcode i) r v] → r ≠ .ok →
    (r = .fault ∧ ∃ f, t = answered { s with faults := s.faults.insert f } (opcode i) r 0#32) ∨
    (r ≠ .fault ∧ ¬(i = .drvInit ∧ r ≠ .busy) ∧ t = answered s (opcode i) r 0#32) ∨
    (r ≠ .fault ∧ i = .drvInit ∧ r ≠ .busy ∧ t = answered { s with driverReady := false } (opcode i) r 0#32)

/-! ### Step sequencer -/

/-- 41_sequencer.md R140: the classification of a binary32 pattern by its exact IEEE 754 value. -/
def Obligations.ClassifyFollowsExactFrequency : Prop :=
  ∀ f : Word,
    (f32Exponent f = 255 → classify f = .stop) ∧
    (f32Exponent f ≠ 255 → f32Magnitude f = 0 → classify f = .stop) ∧
    (f32Exponent f ≠ 255 → f32Magnitude f ≠ 0 → 130000000 < 1000000 / f32Magnitude f → classify f = .stop) ∧
    (f32Exponent f ≠ 255 → f32Magnitude f ≠ 0 → 1000000 / f32Magnitude f ≤ 130000000 →
      ∃ n d : Nat, classify f = .run (if f.getLsbD 31 = true then .neg else .pos) n d ∧ 0 < d ∧
        (n : ℚ) / (d : ℚ) = 1000000 / f32Magnitude f)

/-- 41_sequencer.md R142: a frequency that is too slow reads back as 0. -/
def Obligations.TooSlowFrequencyReadsZero : Prop :=
  ∀ (f : Word) (s : State), f32Exponent f ≠ 255 → f32Magnitude f ≠ 0 → 130000000 < 1000000 / f32Magnitude f →
    ∃ t, exec (.setFreq f) s = .next t ∧ exec .getFreq t = .next (answered t 0x31#8 .ok 0#32)

/-- 41_sequencer.md R141, R143, R144, R182: SETFREQ with a frequency that stops and with one that runs, with either
handler installed. -/
def Obligations.SetFreqArmsTimer : Prop :=
  ∀ (f : Word) (s : State),
    (classify f = .stop →
      exec (.setFreq f) s = .next { answered s 0x30#8 .ok 0#32 with
        freqBits := 0#32, timerRunning := false, periodSub := 0, graceTick := s.timerRunning
        dirLatch := .zero
        rearm := s.rearm || decide (s.dirLatch ≠ .zero)
        step := if s.dirLatch = .zero ∧ s.rearm = true then s.step else 0#32
        pendingStep := if s.dirLatch ≠ .zero ∨ s.rearm = true then 0#32 else s.pendingStep }) ∧
    (∀ d pNum pDen, classify f = .run d pNum pDen → 1 ≤ s.params.kSub → 1 ≤ s.params.periodMinSub →
      let mult : Int := if s.handler = .fast then homeSteps s else 1
      let half : Int := if s.params.waveform = .square then 2 else 1
      exec (.setFreq f) s = .next { answered s 0x30#8 .ok 0#32 with
        freqBits := f, timerRunning := true
        periodSub := (max ((pNum * mult * s.params.kSub).tdiv (pDen * half)) s.params.periodMinSub).toNat
        dirLatch := d
        rearm := s.rearm || decide (s.dirLatch ≠ d)
        step := if s.dirLatch ≠ d then 0#32 else if s.rearm = true then s.step else BitVec.ofInt 32 (d.toInt * mult)
        pendingStep := if s.dirLatch ≠ d ∨ s.rearm = true then BitVec.ofInt 32 (d.toInt * mult) else s.pendingStep }) ∧
    (∀ d pNum pDen, classify f = .run d pNum pDen → ¬(1 ≤ s.params.kSub ∧ 1 ≤ s.params.periodMinSub) →
      exec (.setFreq f) s =
        .next (answered { s with faults := { s.faults with unmodelled := true } } 0x30#8 .fault 0#32))

/-- 41_sequencer.md R146, 43_driver.md R218, R210: SETENABLE and DRV_POWER drive EN, with an event when the level
changes, whatever ticks come between SETENABLE's two steps, and SETENABLE 1 is refused before a successful DRVINIT. -/
def Obligations.EnableAndPowerDriveEnPin : Prop :=
  ∀ (on : Bool) (s : State),
    let level := if on = true then s.params.enActiveLevel else s.params.enActiveLevel.other
    let evs := if s.pins.en = level then [] else [Event.pin .en level]
    exec (.drvPower on) s = .next { s with pins := { s.pins with en := level }, history := s.history ++ evs } ∧
    (on = false ∨ s.driverReady = true →
      (s.preempt = [] → exec (.setEnable on) s = .next (answered { s with
        enabled := on, pins := { s.pins with en := level }, history := s.history ++ evs } 0x32#8 .ok 0#32)) ∧
      ∃ t, exec (.setEnable on) s = .next t ∧ OnlyDriverAndTicks { s with enabled := on } t ∧ t.graceTick = false ∧
        t.pins = { s.pins with en := level } ∧ t.shadows = s.shadows ∧
        driverPins t.history = driverPins s.history ++ pinSends s .en level ∧
        ∃ h, t.history = h ++ [.resp 0x32#8 .ok 0#32]) ∧
    (on = true → s.driverReady = false → exec (.setEnable on) s = .next (answered s 0x32#8 .invalid 0#32))

/-- 41_sequencer.md R147, R148, 42_mode_fsm.md R174: the standard tick at the gate, and the standard tick that is idle. -/
def Obligations.StandardTickGateAndIdle : Prop :=
  ∀ s : State, s.handler = .standard → (s.timerRunning = true ∨ s.graceTick = true) →
    let grace := s.graceTick && s.timerRunning
    (s.modeState = .slewingRequest → atBoundary s = true →
      exec .evTickStd s = .next { s with modeState := .slewingPause, modeReq := true, graceTick := grace }) ∧
    (¬(s.modeState = .tracking ∨ s.modeState = .slewingRequest) ∨
        (s.enabled = false ∧ ¬(s.modeState = .slewingRequest ∧ atBoundary s = true)) →
      exec .evTickStd s = .next { s with graceTick := grace })

/-- 41_sequencer.md R148, R149, R150, 20_memory.md R69: the standard tick that works, in each of its five cases, and its
overflow. `goal` is the target after the auto-advance. -/
def Obligations.StandardTickSteps : Prop :=
  ∀ s : State, s.handler = .standard → (s.timerRunning = true ∨ s.graceTick = true) → s.enabled = true →
    (s.modeState = .tracking ∨ (s.modeState = .slewingRequest ∧ atBoundary s = false)) →
    let goal : Int :=
      if s.synchronized = true ∧ inBacklash s = false then s.targetSteps.toInt + s.step.toInt else s.targetSteps.toInt
    let t : State := { s with
      targetSteps := BitVec.ofInt 32 goal, graceTick := s.graceTick && s.timerRunning
      step := if s.rearm = true then s.pendingStep else s.step, rearm := false }
    (InS32 goal →
      (goal < s.motorSteps.toInt → 0 < s.backlashSteps.toInt →
        exec .evTickStd s = .next { t with
          backlashSteps := BitVec.ofInt 32 (s.backlashSteps.toInt - 1), dir := .rev
          history := s.history ++ stepEvents s .rev }) ∧
      (goal < s.motorSteps.toInt → s.backlashSteps.toInt ≤ 0 →
        exec .evTickStd s = .next { t with
          motorSteps := BitVec.ofInt 32 (s.motorSteps.toInt - 1), dir := .rev
          history := s.history ++ stepEvents s .rev }) ∧
      (s.motorSteps.toInt < goal → s.backlashSteps.toInt < amountEff s →
        exec .evTickStd s = .next { t with
          backlashSteps := BitVec.ofInt 32 (s.backlashSteps.toInt + 1), dir := .fwd
          history := s.history ++ stepEvents s .fwd }) ∧
      (s.motorSteps.toInt < goal → amountEff s ≤ s.backlashSteps.toInt →
        exec .evTickStd s = .next { t with
          motorSteps := BitVec.ofInt 32 (s.motorSteps.toInt + 1), dir := .fwd
          history := s.history ++ stepEvents s .fwd }) ∧
      (s.motorSteps.toInt = goal → exec .evTickStd s = .next t)) ∧
    (¬InS32 goal → exec .evTickStd s = .next { s with faults := { s.faults with overflow := true } })

/-- 41_sequencer.md R152, R150: the fast tick, idle, moving and standing, and its overflow. -/
def Obligations.FastTickSteps : Prop :=
  ∀ s : State, s.handler = .fast → (s.timerRunning = true ∨ s.graceTick = true) →
    let grace := s.graceTick && s.timerRunning
    let goal : Int := if s.synchronized = true then s.targetSteps.toInt + s.step.toInt else s.targetSteps.toInt
    let t : State := { s with
      targetSteps := BitVec.ofInt 32 goal, graceTick := grace
      step := if s.rearm = true then s.pendingStep else s.step, rearm := false }
    let left := goal - s.motorSteps.toInt
    (s.modeState ≠ .slewing ∨ s.enabled = false → exec .evTickFast s = .next { s with graceTick := grace }) ∧
    (s.modeState = .slewing → s.enabled = true →
      (¬InS32 goal → exec .evTickFast s = .next { s with faults := { s.faults with overflow := true } }) ∧
      (InS32 goal → 1 ≤ homeSteps s →
        (s.dir = .fwd → homeSteps s ≤ left →
          exec .evTickFast s = .next { t with
            motorSteps := BitVec.ofInt 32 (s.motorSteps.toInt + homeSteps s)
            history := s.history ++ [.pulse .fwd] }) ∧
        (s.dir = .rev → homeSteps s ≤ -left →
          exec .evTickFast s = .next { t with
            motorSteps := BitVec.ofInt 32 (s.motorSteps.toInt - homeSteps s)
            history := s.history ++ [.pulse .rev] }) ∧
        (¬(s.dir = .fwd ∧ homeSteps s ≤ left) → ¬(s.dir = .rev ∧ homeSteps s ≤ -left) →
          exec .evTickFast s = .next t)))

/-- 41_sequencer.md R153: what one tick may do to the position. -/
def Obligations.TickPositionInvariant : Prop :=
  ∀ s t : State,
    (exec .evTickStd s = .next t →
      |commandedPosition t - commandedPosition s| ≤ 1 ∧
      (0 ≤ s.backlashSteps.toInt ∧ s.backlashSteps.toInt ≤ amountEff s →
        0 ≤ t.backlashSteps.toInt ∧ t.backlashSteps.toInt ≤ amountEff t)) ∧
    (exec .evTickFast s = .next t →
      (t.motorSteps.toInt = s.motorSteps.toInt ∨ t.motorSteps.toInt = s.motorSteps.toInt + homeSteps s ∨
        t.motorSteps.toInt = s.motorSteps.toInt - homeSteps s) ∧ t.backlashSteps = s.backlashSteps)

/-- 41_sequencer.md R154: a tick pulses exactly when it moves, and an idle tick emits nothing. `GateInv` rules out a step
size of 0 while the fast handler moves. -/
def Obligations.OnePulsePerPositionChange : Prop :=
  ∀ (i : Instr) (s t : State), i = .evTickStd ∨ i = .evTickFast → GateInv s → exec i s = .next t →
    ∃ evs, t.history = s.history ++ evs ∧
      (evs.filter isPulse).length =
        (if t.motorSteps = s.motorSteps ∧ t.backlashSteps = s.backlashSteps then 0 else 1) ∧
      (s.enabled = false ∨ (i = .evTickStd ∧ ¬(s.modeState = .tracking ∨ s.modeState = .slewingRequest)) ∨
        (i = .evTickFast ∧ s.modeState ≠ .slewing) → evs = [])

/-- 10_state.md R52, 41_sequencer.md R156: a tick writes nothing but the sequencer's fields and touches no bus, and the
driver's shadows, status, readiness, pins and chip, the hint, and every configuration register but the two that give the
step ratio, have no influence on it. -/
def Obligations.TicksLeaveDriverStateAlone : Prop :=
  ∀ (i : Instr) (s t : State), i = .evTickStd ∨ i = .evTickFast → exec i s = .next t →
    OnlyTickState s t ∧
    (∃ evs, t.history = s.history ++ evs ∧ ∀ e ∈ evs, isTxn e = false ∧ isResp e = false) ∧
    ∀ (c : DriverConfig) (sh : Shadows) (st : DriverStatus) (d : Word) (b : Byte) (pn : Pins) (hint ready : Bool)
      (o : Oracle), c.microsteps = s.cfg.microsteps → c.microstepsSlewing = s.cfg.microstepsSlewing →
      exec i { s with cfg := c, shadows := sh, status := st, lastDrvStatus := d, lastSpiStatus := b, pins := pn,
                      slewHint := hint, driverReady := ready, oracle := o } =
        .next { t with cfg := c, shadows := sh, status := st, lastDrvStatus := d, lastSpiStatus := b, pins := pn,
                       slewHint := hint, driverReady := ready, oracle := o }

/-- 41_sequencer.md R147, R144, 70_reset_and_hazards.md R316: a tick that T cannot take changes nothing (log 7); with the
timer stopped, a tick that raises no model fault spends the grace tick, and no further tick does anything. -/
def Obligations.GraceTickComesOnce : Prop :=
  ∀ s : State,
    (s.timerRunning = false → s.graceTick = false → exec .evTickStd s = .next s ∧ exec .evTickFast s = .next s) ∧
    (s.handler = .fast → exec .evTickStd s = .next s) ∧ (s.handler = .standard → exec .evTickFast s = .next s) ∧
    (∀ t, s.timerRunning = false → s.graceTick = true → s.faults.overflow = false → exec (tickInstr s) s = .next t →
      t.faults = s.faults →
      t.graceTick = false ∧ exec .evTickStd t = .next t ∧ exec .evTickFast t = .next t)

/-! ### Mode switch -/

/-- 41_sequencer.md R145, 42_mode_fsm.md R171, R172, R173, 43_driver.md R216, R219, 10_state.md R40: the commands that
only read, the hint, and CALIBRATE, in every state. -/
def Obligations.HintAndReadersAnswer : Prop :=
  ∀ (on : Bool) (s : State),
    exec (.setSlew on) s = .next (answered { s with slewHint := on } 0x40#8 .ok 0#32) ∧
    exec .getFreq s = .next (answered s 0x31#8 .ok s.freqBits) ∧
    exec .getMode s = .next (answered s 0x41#8 .ok
      (match s.modeState with
        | .tracking => 0#32
        | .slewing => 1#32
        | .slewingRequest => 2#32
        | .slewingPause => 3#32
        | .slewingReady => 4#32
        | .trackingReady => 5#32)) ∧
    exec .getSlewRatio s = .next (answered s 0x42#8 .ok
      (if s.params.modeSwitchSupported = true ∧ s.driverReady = true then BitVec.ofInt 32 (homeSteps s) else 1#32)) ∧
    exec .getStatus s = .next (answered s 0x54#8 .ok (packStatus s.status)) ∧
    exec .calibrate s = .next (answered s 0x55#8 .refused 0#32)

/-- 42_mode_fsm.md R175, R176: the polls that write no driver register, when no tick comes in between: transitions 1, 2,
4 and 6, and the polls that do nothing. -/
def Obligations.PlainModePolls : Prop :=
  ∀ s : State, s.preempt = [] →
    (s.modeState = .tracking → s.slewHint = true → switchable s = true →
      exec .evModePoll s = .next { s with graceTick := false, modeState := .slewingRequest }) ∧
    (s.modeState = .tracking → ¬(s.slewHint = true ∧ switchable s = true) →
      exec .evModePoll s = .next { s with graceTick := false }) ∧
    (s.modeState = .slewingRequest → s.slewHint = false →
      exec .evModePoll s = .next { s with graceTick := false, modeState := .tracking }) ∧
    (s.modeState = .slewingRequest → s.slewHint = true → exec .evModePoll s = .next { s with graceTick := false }) ∧
    (s.modeState = .slewingPause → s.slewHint = false →
      exec .evModePoll s = .next { s with graceTick := false, modeState := .tracking, modeReq := false }) ∧
    (s.modeState = .slewingReady → exec .evModePoll s = .next { s with graceTick := false, modeState := .slewing }) ∧
    (s.modeState = .slewing → s.slewHint = true → exec .evModePoll s = .next { s with graceTick := false })

/-- 42_mode_fsm.md R175 #5, R176, R178: the switch to slewing is DRV_MS_SLEW, DRV_DECAY_SLEW, the settling of the
direction, and the fast handler with its timer, when no tick comes in between. -/
def Obligations.SwitchToSlewingReconfigures : Prop :=
  ∀ s : State, ParamsOk s.params → s.preempt = [] → s.modeState = .slewingPause → s.slewHint = true →
    atBoundary s = true → SequencerInv s →
    ∃ u₁ u₂ t, exec .drvMsSlew { s with graceTick := false } = .next u₁ ∧ exec .drvDecaySlew u₁ = .next u₂ ∧
      exec .evModePoll s = .next t ∧
      t = { u₂ with
        modeState := .slewingReady, modeReq := false, handler := .fast
        dir :=
          if s.motorSteps.toInt < s.targetSteps.toInt then .fwd
          else if s.targetSteps.toInt < s.motorSteps.toInt then .rev
          else match s.dirLatch with
            | .pos => .fwd
            | .neg => .rev
            | .zero => s.dir
        periodSub := armedPeriod { s with handler := .fast }
        step := if s.rearm = true then 0#32 else BitVec.ofInt 32 (s.dirLatch.toInt * homeSteps s)
        pendingStep := if s.rearm = true then BitVec.ofInt 32 (s.dirLatch.toInt * homeSteps s) else s.pendingStep
        history := u₂.history ++ (if t.dir = s.dir then [] else [.pin .dir (dirLevel s.params t.dir)]) } ∧
      OnlyDriver { s with graceTick := false } u₂

/-- 42_mode_fsm.md R175 #7 and #8, R176: the switch back installs the standard handler and its timer, then reconfigures
with DRV_MS_TRACK and DRV_DECAY_TRACK, when no tick comes in between. -/
def Obligations.SwitchBackReconfigures : Prop :=
  ∀ s : State, ParamsOk s.params → s.preempt = [] → atBoundary s = true →
    (s.modeState = .slewing → s.slewHint = false → SequencerInv s →
      exec .evModePoll s = .next { s with
        graceTick := false, handler := .standard, modeState := .trackingReady
        periodSub := armedPeriod { s with handler := .standard }
        step := if s.rearm = true then 0#32 else BitVec.ofInt 32 s.dirLatch.toInt
        pendingStep := if s.rearm = true then BitVec.ofInt 32 s.dirLatch.toInt else s.pendingStep }) ∧
    (s.modeState = .trackingReady →
      ∃ u₁ u₂, exec .drvMsTrack { s with graceTick := false } = .next u₁ ∧ exec .drvDecayTrack u₁ = .next u₂ ∧
        exec .evModePoll s = .next { u₂ with modeState := .tracking } ∧ OnlyDriver { s with graceTick := false } u₂)

/-- 42_mode_fsm.md R177: off a boundary the poll reconfigures nothing and swaps no handler: it sets `F_GATING` and changes
nothing else. (The grace tick is lost at the start of the poll, R144 and log 8.) -/
def Obligations.GatingFaultOffBoundary : Prop :=
  ∀ s : State, s.preempt = [] → atBoundary s = false →
    (s.modeState = .slewingPause ∧ s.slewHint = true) ∨ (s.modeState = .slewing ∧ s.slewHint = false) ∨
      s.modeState = .trackingReady →
    exec .evModePoll s = .next { s with graceTick := false, faults := { s.faults with gating := true } }

/-- 42_mode_fsm.md R175, R179: whatever move is made and whatever ticks come in between, the mode state changes only along
the transition table, under its conditions; transitions 3, 5, 7 and 8, which pass the gate, swap the handler or switch the
driver's resolution, end on a boundary. -/
def Obligations.StepsFollowTransitionTable : Prop :=
  ∀ (slot : Slot) (s t : State), runSlot slot s = .next t →
    (t.modeState = s.modeState ∧ t.handler = s.handler) ∨
    (s.modeState = .tracking ∧ t.modeState = .slewingRequest ∧ s.slewHint = true ∧ switchable s = true ∧
      t.handler = s.handler) ∨
    (s.modeState = .slewingRequest ∧ t.modeState = .tracking ∧ s.slewHint = false ∧ t.handler = s.handler) ∨
    (s.modeState = .slewingRequest ∧ t.modeState = .slewingPause ∧ t.modeReq = true ∧ s.handler = .standard ∧
      t.handler = .standard ∧ atBoundary t = true) ∨
    (s.modeState = .slewingPause ∧ t.modeState = .tracking ∧ s.slewHint = false ∧ t.modeReq = false ∧
      t.handler = s.handler) ∨
    (s.modeState = .slewingPause ∧ t.modeState = .slewingReady ∧ s.slewHint = true ∧ t.handler = .fast ∧
      t.modeReq = false ∧ atBoundary t = true) ∨
    (s.modeState = .slewingReady ∧ t.modeState = .slewing ∧ t.handler = s.handler) ∨
    (s.modeState = .slewing ∧ t.modeState = .trackingReady ∧ s.slewHint = false ∧ t.handler = .standard ∧
      atBoundary t = true) ∨
    (s.modeState = .trackingReady ∧ t.modeState = .tracking ∧ t.handler = s.handler ∧ atBoundary t = true)

/-- 42_mode_fsm.md R180: on a model without mode switching a block in TRACKING with the standard handler stays so, whatever
move is made. -/
def Obligations.UnsupportedSwitchStaysTracking : Prop :=
  ∀ (slot : Slot) (s t : State), s.params.modeSwitchSupported = false → s.modeState = .tracking →
    s.handler = .standard → runSlot slot s = .next t →
    t.params.modeSwitchSupported = false ∧ t.modeState = .tracking ∧ t.handler = .standard

/-- 42_mode_fsm.md R181: tracking, not synchronized, toward a target at least `homeSteps` away, ahead or behind, a
requested switch meets its gate within `homeSteps` ticks. -/
def Obligations.RequestMeetsGateWithinRatio : Prop :=
  ∀ s : State, s.modeState = .slewingRequest → s.handler = .standard → s.timerRunning = true → s.enabled = true →
    s.synchronized = false → BacklashInv s → 1 ≤ homeSteps s →
    homeSteps s ≤ |s.targetSteps.toInt - s.motorSteps.toInt| →
    s.schedule = List.replicate (homeSteps s).toNat .tick →
    ∃ n t, n ≤ (homeSteps s).toNat ∧ Host.Core.run Sys2Proof.core n s = .next t ∧ t.modeState = .slewingPause

/-! ### Driver -/

/-- 43_driver.md R198, 60_exceptions.md R281, R285: the configurations that `validateConfig` accepts, and the verdict of
every other one: the checks of R198 stand in their order, the first that fails decides between INVALID and UNSUPPORTED, and a
code outside its domain raises a model fault only where none fails (log 10). -/
def Obligations.ValidConfigurationsAre : Prop :=
  ∀ (p : Params) (c : DriverConfig),
    let off : Word := 0xFFFFFFFF#32
    let counts : List Int := [1, 2, 4, 8, 16, 32, 64, 128, 256]
    let codeIn (m : Int) : Prop :=
      if p.model = .genericTable then 0 ≤ subdivisionsToCode p m ∧ subdivisionsToCode p m ≤ 7
      else subdivisionsToCode p m ≠ -1
    let legal : List Word := if p.model.cls = .generic then [0#32, 1#32, 2#32] else [3#32, 4#32]
    let badCurrent (x : Word) : Prop := x ≠ off ∧ (x.toInt < 0 ∨ p.iMaxMa < x.toInt)
    let checks : List (Prop × Result) :=
      [(c.microsteps.toInt ∉ counts, .invalid),
       (subdivisionsToCode p c.microsteps.toInt = -1, .unsupported),
       (c.microstepsSlewing ≠ off ∧ c.microstepsSlewing.toInt ∉ counts, .invalid),
       (c.microstepsSlewing ≠ off ∧ subdivisionsToCode p c.microstepsSlewing.toInt = -1, .unsupported),
       (c.microstepsSlewing ≠ off ∧ c.microsteps.toInt < c.microstepsSlewing.toInt, .invalid),
       (badCurrent c.currentHold, .invalid), (badCurrent c.currentRun, .invalid), (badCurrent c.currentGoto, .invalid),
       (p.model.cls ≠ .generic ∧ c.currentRun = off, .invalid),
       (c.decay ∉ legal, .invalid), (c.decaySlewing ≠ off ∧ c.decaySlewing ∉ legal, .invalid)]
    (validateConfig p c = .ok ↔
      c.microsteps.toInt ∈ counts ∧ codeIn c.microsteps.toInt ∧
      (c.microstepsSlewing = off ∨
        (c.microstepsSlewing.toInt ∈ counts ∧ codeIn c.microstepsSlewing.toInt ∧
          c.microstepsSlewing.toInt ≤ c.microsteps.toInt)) ∧
      (∀ x ∈ [c.currentHold, c.currentRun, c.currentGoto], x = off ∨ (0 ≤ x.toInt ∧ x.toInt ≤ p.iMaxMa)) ∧
      (p.model.cls = .generic ∨ c.currentRun ≠ off) ∧ c.decay ∈ legal ∧
      (c.decaySlewing = off ∨ c.decaySlewing ∈ legal)) ∧
    (∀ r, validateConfig p c = .refuse r ↔
      ∃ before fails after, checks = before ++ (fails, r) :: after ∧ fails ∧ ∀ e ∈ before, ¬e.1) ∧
    (validateConfig p c = .unmodelled ↔
      (∀ e ∈ checks, ¬e.1) ∧
        ¬(codeIn c.microsteps.toInt ∧ (c.microstepsSlewing = off ∨ codeIn c.microstepsSlewing.toInt)))

/-- 43_driver.md R196: the step ratio of a valid configuration is exact and a power of two. -/
def Obligations.StepRatioIsPowerOfTwo : Prop :=
  ∀ s : State, validateConfig s.params s.cfg = .ok →
    (s.cfg.microstepsSlewing = 0xFFFFFFFF#32 → homeSteps s = 1) ∧
    (s.cfg.microstepsSlewing ≠ 0xFFFFFFFF#32 →
      s.cfg.microsteps.toInt = homeSteps s * s.cfg.microstepsSlewing.toInt ∧ ∃ k : Nat, homeSteps s = 2 ^ k)

/-- 43_driver.md R195, R193: the codes of the microstep counts. The last clause is R193's formula for the TMC codes, which
the spec marks as general knowledge (PRESUMED, log 23). -/
def Obligations.MicrostepCodesAreValid : Prop :=
  ∀ (p : Params) (m : Int), ParamsOk p →
    (m ∈ ([1, 2, 4, 8, 16, 32, 64, 128, 256] : List Int) →
      subdivisionsToCode p m = -1 ∨
        (0 ≤ subdivisionsToCode p m ∧ subdivisionsToCode p m ≤ (if p.model.cls = .generic then 7 else 8))) ∧
    (m ∉ ([1, 2, 4, 8, 16, 32, 64, 128, 256] : List Int) → subdivisionsToCode p m = -1) ∧
    (m ∈ ([1, 2, 4, 8, 16, 32, 64, 128, 256] : List Int) → p.model.cls ≠ .generic →
      (m : ℚ) * (2 : ℚ) ^ (subdivisionsToCode p m) = 256)

/-- 43_driver.md R197: the current register value, in exact arithmetic. `round` takes the nearest integer, and of two the
upper, which for a current of 0 or more is the one away from zero. (For a negative current see log 33; a real `RSENSE` has
the values of a rational one, log 12.) -/
def Obligations.CurrentScaleFollowsFormula : Prop :=
  ∀ (r : Ratio) (halfMa : Int), 0 < r.num → 0 < r.den → 0 ≤ halfMa →
    csOfHalfMa r halfMa =
      max 0 (min 31 (round (((halfMa : ℚ) / 2 / 1000) / ((325 / 1000) / ((r.num : ℚ) / (r.den : ℚ))) * 32) - 1))

/-- 43_driver.md R199, R200, R201: the parameter commands, for every id; id 7 is written by no word (log 19). -/
def Obligations.ParameterCommandsValidate : Prop :=
  ∀ (p : BitVec 3) (v : Word) (s : State),
    (∀ id, paramOfField p = some id →
      let c := cfgSet s.cfg id v
      (validateConfig s.params c = .ok →
        exec (.valParam p v) s = .next (answered s 0x51#8 .ok 0#32) ∧
        (s.modeState = .tracking →
          exec (.setParam p v) s = .next (answered { s with cfg := c } 0x52#8 .ok 0#32)) ∧
        cfgGet c id = v ∧ ∀ id', id' ≠ id → cfgGet c id' = cfgGet s.cfg id') ∧
      (∀ r, validateConfig s.params c = .refuse r →
        (r = .invalid ∨ r = .unsupported) ∧
        exec (.valParam p v) s = .next (answered s 0x51#8 r 0#32) ∧
        (s.modeState = .tracking → exec (.setParam p v) s = .next (answered s 0x52#8 r 0#32))) ∧
      (validateConfig s.params c = .unmodelled →
        let bad := { s with faults := { s.faults with unmodelled := true } }
        exec (.valParam p v) s = .next (answered bad 0x51#8 .fault 0#32) ∧
        (s.modeState = .tracking → exec (.setParam p v) s = .next (answered bad 0x52#8 .fault 0#32))) ∧
      exec (.getParam p) s = .next (answered s 0x53#8 .ok (cfgGet s.cfg id))) ∧
    (p = 7#3 →
      exec (.valParam p v) s = .next (answered s 0x51#8 .illegal 0#32) ∧
      exec (.setParam p v) s = .next (answered s 0x52#8 .illegal 0#32) ∧
      exec (.getParam p) s = .next (answered s 0x53#8 .illegal 0#32))

/-- 43_driver.md R202, R203, R206, R208, R210, 45_bus.md R272: DRVINIT of a valid configuration, on each class of model,
whatever ticks come in between: the registers, their frames, the pins and their events. -/
def Obligations.DrvInitConfiguresDriver : Prop :=
  ∀ s : State, s.modeState = .tracking → validateConfig s.params s.cfg = .ok → ParamsOk s.params →
    let p := s.params
    let gconf := if p.model.cls = .tmcUart then gconfUart p s.cfg.decay else gconfSpi s.cfg.decay
    let ihold := ihr p s.cfg .track
    let chop := chopconf p.chopconfBase (codeOf s .track)
    let values : List (TmcReg × Word) :=
      [(.iholdIrun, ihold), (.chopconf, chop), (.pwmconf, p.pwmconfValue), (.gconf, gconf), (.coolconf, p.coolconfValue)]
    let en := if s.enabled = true then p.enActiveLevel else p.enActiveLevel.other
    let m (n : Nat) : Level := bitLevel (codeOf s .track) n
    let dec : Level := decayLevelOf p.decayLevels s.cfg.decay
    ∃ t, exec .drvInit s = .next t ∧ OnlyDriverAndTicks { s with driverReady := true } t ∧ t.graceTick = false ∧
      t.modeState = .tracking ∧ (∃ h, t.history = h ++ [.resp 0x50#8 .ok 0#32]) ∧
      (p.model.cls = .tmcSpi →
        spiSent t.history = spiSent s.history ++ values.map (fun e => spiWriteFrame p e.1 e.2) ∧
        uartSent t.history = uartSent s.history) ∧
      (p.model.cls = .tmcUart →
        uartSent t.history = uartSent s.history ++ values.map (fun e => uartWrite p e.1 e.2) ∧
        spiSent t.history = spiSent s.history) ∧
      (p.model.cls ≠ .generic →
        t.shadows = { gconf := sent gconf, iholdIrun := sent ihold, chopconf := sent chop,
                      pwmconf := sent p.pwmconfValue, coolconf := sent p.coolconfValue } ∧
        t.pins = { s.pins with en := en } ∧
        driverPins t.history = driverPins s.history ++ pinSends s .en en) ∧
      (p.model.cls = .generic →
        spiSent t.history = spiSent s.history ∧ uartSent t.history = uartSent s.history ∧
        t.shadows = invalidateShadows s.shadows ∧
        t.pins = {
          en := en
          m0 := if p.hasMPins = true then some (m 0) else s.pins.m0
          m1 := if p.hasMPins = true then some (m 1) else s.pins.m1
          m2 := if p.hasMPins = true then some (m 2) else s.pins.m2
          decay := if p.hasDecayPin = true then some dec else s.pins.decay } ∧
        driverPins t.history = driverPins s.history ++
          (if p.hasMPins = true then pinSends s .m0 (m 0) ++ pinSends s .m1 (m 1) ++ pinSends s .m2 (m 2) else []) ++
          (if p.hasDecayPin = true then pinSends s .decay dec else []) ++ pinSends s .en en)

/-- 43_driver.md R206 to R210, R212, 45_bus.md R262: the four mode operations, on each class of model, whatever ticks come
in between: the registers or pins they leave, the writes they send, which the shadows suppress, and the pin events. For a
configuration that was not validated the values rest on logs 32 and 33. -/
def Obligations.ModeOperationsWriteRegisters : Prop :=
  ∀ (x : Phase) (ms dec : Instr) (s : State),
    (x = .track ∧ ms = .drvMsTrack ∧ dec = .drvDecayTrack) ∨ (x = .slew ∧ ms = .drvMsSlew ∧ dec = .drvDecaySlew) →
    ParamsOk s.params →
    let p := s.params
    let ihold := ihr p s.cfg x
    let chop := chopconf p.chopconfBase (codeOf s x)
    let gconf := if p.model.cls = .tmcUart then gconfUart p (decOf s.cfg x) else gconfSpi (decOf s.cfg x)
    let m (n : Nat) : Level := bitLevel (codeOf s x) n
    let level : Level := decayLevelOf p.decayLevels (decOf s.cfg x)
    ∃ t u, exec ms s = .next t ∧ exec dec s = .next u ∧ OnlyDriverAndTicks s t ∧ OnlyDriverAndTicks s u ∧
      (s.preempt = [] → OnlyDriver s t ∧ OnlyDriver s u) ∧
      (p.model.cls ≠ .generic →
        t.shadows = { s.shadows with iholdIrun := sent ihold, chopconf := sent chop } ∧
        u.shadows = { s.shadows with gconf := sent gconf } ∧ t.pins = s.pins ∧ u.pins = s.pins ∧
        driverPins t.history = driverPins s.history ∧ driverPins u.history = driverPins s.history) ∧
      (p.model.cls = .tmcSpi →
        spiSent t.history = spiSent s.history ++ spiSends s .iholdIrun ihold ++ spiSends s .chopconf chop ∧
        spiSent u.history = spiSent s.history ++ spiSends s .gconf gconf ∧
        uartSent t.history = uartSent s.history ∧ uartSent u.history = uartSent s.history) ∧
      (p.model.cls = .tmcUart →
        uartSent t.history = uartSent s.history ++ uartSends s .iholdIrun ihold ++ uartSends s .chopconf chop ∧
        uartSent u.history = uartSent s.history ++ uartSends s .gconf gconf ∧
        spiSent t.history = spiSent s.history ∧ spiSent u.history = spiSent s.history) ∧
      (p.model.cls = .generic →
        t.shadows = s.shadows ∧ u.shadows = s.shadows ∧
        spiSent t.history = spiSent s.history ∧ uartSent t.history = uartSent s.history ∧
        spiSent u.history = spiSent s.history ∧ uartSent u.history = uartSent s.history ∧
        t.pins = (if p.hasMPins = true then
          { s.pins with m0 := some (m 0), m1 := some (m 1), m2 := some (m 2) } else s.pins) ∧
        u.pins = (if p.hasDecayPin = true then { s.pins with decay := some level } else s.pins) ∧
        driverPins t.history = driverPins s.history ++
          (if p.hasMPins = true then pinSends s .m0 (m 0) ++ pinSends s .m1 (m 1) ++ pinSends s .m2 (m 2) else []) ∧
        driverPins u.history = driverPins s.history ++
          (if p.hasDecayPin = true then pinSends s .decay level else []))

/-- 43_driver.md R220: a mode operation called again, with the configuration, the shadows and the pins as its first call
left them, sends nothing and changes nothing. -/
def Obligations.RepeatedModeOperationIsSilent : Prop :=
  ∀ (i : Instr) (s t u : State), i ∈ [Instr.drvMsTrack, .drvMsSlew, .drvDecayTrack, .drvDecaySlew] →
    ParamsOk s.params → exec i s = .next t → u.params = t.params → u.cfg = t.cfg → u.shadows = t.shadows →
    u.pins = t.pins → exec i u = .next u

/-- 43_driver.md R214, 45_bus.md R264, R265, R270: the status read with the chip's replies at hand and no tick in between:
the second SPI reply counts, a failed UART read is the fail-safe. -/
def Obligations.StatusReadDecodesReply : Prop :=
  ∀ s : State, s.params.regAddr.drvStatus ≤ 0x7F → s.preempt = [] →
    (s.params.model.cls = .tmcSpi → ∀ r₁ r₂ rest, s.oracle.spi = r₁ :: r₂ :: rest →
      exec .drvUpdateStatus s = .next { s with
        oracle := { s.oracle with spi := rest, served := s.oracle.served + 2 }
        lastSpiStatus := r₂.extractLsb' 32 8, lastDrvStatus := r₂.extractLsb' 0 32
        status := decodeDrvStatusSpi (r₂.extractLsb' 0 32) (r₂.extractLsb' 32 8)
        history := s.history ++ [.txn (.spi (spiReadFrame s.params .drvStatus) r₁),
                                 .txn (.spi (spiReadFrame s.params .drvStatus) r₂)] }) ∧
    (s.params.model.cls = .tmcUart → ∀ r rest, s.oracle.uart = r :: rest → r ≠ some [] →
      let got := { s with
        oracle := { s.oracle with uart := rest, served := s.oracle.served + 1 }
        history := s.history ++ [Event.txn (.uart (uartReadReq s.params .drvStatus) r)] }
      (uartParse s.params .drvStatus r = none →
        exec .drvUpdateStatus s = .next { got with status := failsafe }) ∧
      (∀ d, uartParse s.params .drvStatus r = some d →
        exec .drvUpdateStatus s = .next { got with
          lastDrvStatus := d, status := decodeDrvStatusUart s.params.uartDrvStatus d })) ∧
    (s.params.model.cls = .generic → s.params.hasFaultPin = false →
      exec .drvUpdateStatus s = .next { s with status := DriverStatus.clear }) ∧
    (s.params.model.cls = .generic → s.params.hasFaultPin = true → ∀ l rest, s.oracle.faultPin = l :: rest →
      exec .drvUpdateStatus s = .next { s with
        oracle := { s.oracle with faultPin := rest, served := s.oracle.served + 1 }
        status := { DriverStatus.clear with active := true, fault := decide (l = s.params.faultActiveLevel) } })

/-- 43_driver.md R214, R217, 45_bus.md R272: the status poll runs the status read once the driver is ready and does nothing
before; whatever the chip answers and whatever ticks come in between, the read completes, sends two SPI frames, one UART
request or nothing, and writes the status registers alone. -/
def Obligations.StatusPollReadsOnce : Prop :=
  ∀ s : State,
    (s.driverReady = false → exec .evStatusPoll s = .next { s with graceTick := false }) ∧
    (s.driverReady = true →
      ∃ t, exec .evStatusPoll s = .next t ∧ exec .drvUpdateStatus { s with graceTick := false } = .next t) ∧
    (s.params.regAddr.drvStatus ≤ 0x7F →
      ∃ t, exec .drvUpdateStatus s = .next t ∧
        OnlyDriverAndTicks { s with status := t.status, lastDrvStatus := t.lastDrvStatus
                                    lastSpiStatus := t.lastSpiStatus } t ∧
        t.shadows = s.shadows ∧ t.pins = s.pins ∧
        spiSent t.history = spiSent s.history ++
          (if s.params.model.cls = .tmcSpi then List.replicate 2 (spiReadFrame s.params .drvStatus) else []) ∧
        uartSent t.history = uartSent s.history ++
          (if s.params.model.cls = .tmcUart then [uartReadReq s.params .drvStatus] else []))

/-! ### Register codec -/

/-- 30_encoding.md R87: where each status field lies in the value of GETSTATUS. -/
def Obligations.PackedStatusBits : Prop :=
  ∀ (t : DriverStatus) (n : Nat),
    (packStatus t).getLsbD n =
      ([t.active, t.outputA.shortToGround, t.outputA.openLoad, t.outputB.shortToGround, t.outputB.openLoad,
        t.overTemperatureWarning, t.overTemperature, t.standstill, t.fault][n]?).getD false

/-- 44_tmc_codec.md R232, R234, R236, R240 to R242: the packed fields read back, nothing else of the base value changes,
and the SPI status decoder reads each bit where the table puts it, but for the all-zero reply, which is the fail-safe. -/
def Obligations.CodecFieldsReadBack : Prop :=
  (∀ (h r : BitVec 5) (dly : BitVec 4),
    unpackIholdIrun (packIholdIrun (h.setWidth 32) (r.setWidth 32) (dly.setWidth 32)) = (h, r, dly)) ∧
  (∀ (base : Word) (mres : BitVec 4), mresOf (chopconf base (mres.setWidth 32)) = mres ∧
    ∀ n, ¬(24 ≤ n ∧ n ≤ 27) → (chopconf base (mres.setWidth 32)).getLsbD n = base.getLsbD n) ∧
  (∀ (a : Byte) (d : Word), spiStatusOf (spiFrame a d) = a ∧ spiDataOf (spiFrame a d) = d) ∧
  (∀ (d : Word) (b : Byte),
    (d = 0#32 → b = 0#8 → packStatus (decodeDrvStatusSpi d b) = 0x1FF#32) ∧
    (¬(d = 0#32 ∧ b = 0#8) →
      let t := decodeDrvStatusSpi d b
      t.active = true ∧ t.standstill = d.getLsbD 31 ∧ t.outputB.openLoad = d.getLsbD 30 ∧
      t.outputA.openLoad = d.getLsbD 29 ∧ t.outputB.shortToGround = d.getLsbD 28 ∧
      t.outputA.shortToGround = d.getLsbD 27 ∧ t.overTemperatureWarning = d.getLsbD 26 ∧
      t.overTemperature = d.getLsbD 25 ∧ (t.fault = true ↔ ∃ n, 25 ≤ n ∧ n ≤ 30 ∧ d.getLsbD n = true)))

/-- 44_tmc_codec.md R230, R237, R246, R247, 30_encoding.md R99: the register values and address bytes that the codec forms,
and the UART status decoder, bit by bit at its default layout (general knowledge, log 23). `UART_SPREAD_POLARITY` true is the
default polarity; what false means is log 15. -/
def Obligations.CodecFormsRegisterBits : Prop :=
  (∀ (d : Word) (n : Nat), (gconfSpi d).getLsbD n = (decide (n = 0) || (decide (n = 2) && decide (d = 4#32)))) ∧
  (∀ (p : Params) (d : Word) (n : Nat), (gconfUart p d).getLsbD n =
    (p.uartGconfBase.getLsbD n || (decide (n = 2) && (decide (d = 3#32) == p.uartSpreadPolarity)))) ∧
  (∀ (p : Params) (r : TmcReg) (write : Bool), p.regAddr.addr r ≤ 0x7F →
    (addrByte p r write).toNat = p.regAddr.addr r + (if write = true then 128 else 0)) ∧
  (∀ d : Word,
    let t := decodeDrvStatusUart UartStatusLayout.tmc22xx d
    t.active = true ∧ t.overTemperatureWarning = d.getLsbD 0 ∧ t.overTemperature = d.getLsbD 1 ∧
    t.outputA.shortToGround = d.getLsbD 2 ∧ t.outputB.shortToGround = d.getLsbD 3 ∧ t.outputA.openLoad = d.getLsbD 6 ∧
    t.outputB.openLoad = d.getLsbD 7 ∧ t.standstill = d.getLsbD 31 ∧
    (t.fault = true ↔ ∃ n ∈ [0, 1, 2, 3, 6, 7], d.getLsbD n = true))

/-- 44_tmc_codec.md R243, R245, 30_encoding.md R96: with the default framing, whatever its CRC, the datagrams are these
bytes with the CRC of what precedes it, and the parser accepts exactly the well-formed replies and returns their data. With
any framing whose reply carries every data byte, the parser accepts exactly the replies that the framing forms (log 15). -/
def Obligations.UartParserAcceptsWellFormedReplies : Prop :=
  ∀ (p : Params) (r : TmcReg) (v : Word),
    let reg (write : Bool) : Byte := addrByte p r write
    let header (write : Bool) : List Byte := [0x05#8, p.uartAddr.setWidth 8, reg write]
    (p.uartFraming.writeLayout = UartFraming.trinamic.writeLayout →
      uartWrite p r v = withCrc p.uartFraming (header true ++ bytesOfWord v)) ∧
    (p.uartFraming.requestLayout = UartFraming.trinamic.requestLayout →
      uartReadReq p r = withCrc p.uartFraming (header false)) ∧
    (p.uartFraming.replyLayout = UartFraming.trinamic.replyLayout → ∀ reply,
      (uartParse p r reply = some v ↔
        reply = some (withCrc p.uartFraming ([0x05#8, 0xFF#8, reg false] ++ bytesOfWord v)))) ∧
    ((∀ k, k < 4 → .data k ∈ p.uartFraming.replyLayout) → ∀ reply,
      (uartParse p r reply = some v ↔ reply = some (uartReply p r v)))

/-! ### The whole machine -/

/-- 10_state.md R53, R41: every step keeps the agreement of mode state, handler and request flag. -/
def Obligations.StepKeepsModeInvariant : Prop :=
  ∀ s t : State, ModeInv s → step s = .next t → ModeInv t

/-- 10_state.md R55, R25, R26: every step keeps the backlash counter within the travel in effect. -/
def Obligations.StepKeepsBacklashInvariant : Prop :=
  ∀ s t : State, BacklashInv s → step s = .next t → BacklashInv t

/-- 10_state.md R54, 42_mode_fsm.md R179: every step keeps the motor on a boundary from the gate to the end of the switch
back, and the driver ready with a ratio above 1 outside TRACKING. -/
def Obligations.StepKeepsGateInvariant : Prop :=
  ∀ s t : State, GateInv s → step s = .next t → GateInv t

/-- 10_state.md R30 to R33, R38, 41_sequencer.md R143: every step keeps the timer and the step in agreement with the
accepted frequency and the installed handler. -/
def Obligations.StepKeepsSequencerInvariant : Prop :=
  ∀ s t : State, ModeInv s → SequencerInv s → step s = .next t → SequencerInv t

/-- 10_state.md R44, 43_driver.md R198, R200: every step keeps a ready driver's configuration valid. -/
def Obligations.StepKeepsConfigInvariant : Prop :=
  ∀ s t : State, ConfigInv s → step s = .next t → ConfigInv t

/-- 10_state.md R49, R42, 00_scope.md R6: no move clears a model fault or changes a parameter (parameters are a field of the
state by log 1). -/
def Obligations.FaultsStayAndParamsAreFixed : Prop :=
  ∀ (slot : Slot) (s t : State), runSlot slot s = .next t →
    t.params = s.params ∧ ∀ f, s.faults.has f = true → t.faults.has f = true

/-- 10_state.md R50: a move appends to the history and never reads it: with any other history before it, it appends the
same events and leaves the same state. -/
def Obligations.HistoryIsOnlyAppended : Prop :=
  ∀ (slot : Slot) (s t : State), runSlot slot s = .next t →
    ∃ evs, t.history = s.history ++ evs ∧
      ∀ h, runSlot slot { s with history := h } = .next { t with history := h ++ evs }

/-- 10_state.md R24, R26, R27, R28, R30, R35, R37, R41, R43, R45, R46: which instructions write the registers that one
command alone may write. -/
def Obligations.RegisterWritersAreListed : Prop :=
  ∀ (i : Instr) (s t : State), exec i s = .next t →
    (t.synchronized ≠ s.synchronized → ∃ on, i = .setSync on) ∧
    (t.freqBits ≠ s.freqBits → ∃ f, i = .setFreq f) ∧
    (t.enabled ≠ s.enabled → ∃ on, i = .setEnable on) ∧
    (t.slewHint ≠ s.slewHint → ∃ on, i = .setSlew on) ∧
    (t.backlashAmountSteps ≠ s.backlashAmountSteps → ∃ a, i = .setBlAmount a) ∧
    (t.originSteps ≠ s.originSteps → i = .markOrigin ∨ ∃ v, i = .resetPos v) ∧
    (t.indexSteps ≠ s.indexSteps → (∃ v, i = .setInstr v ∨ i = .resetPos v) ∨ ∃ v m, i = .setInstrPark v m) ∧
    (t.backlashDisabled ≠ s.backlashDisabled → i = .blDisable ∨ i = .blEnable) ∧
    (t.cfg ≠ s.cfg → ∃ p v, i = .setParam p v) ∧
    (t.driverReady ≠ s.driverReady → i = .drvInit) ∧
    (t.handler ≠ s.handler → i = .evModePoll) ∧
    (t.status ≠ s.status ∨ t.lastDrvStatus ≠ s.lastDrvStatus ∨ t.lastSpiStatus ≠ s.lastSpiStatus →
      i = .drvUpdateStatus ∨ i = .evStatusPoll) ∧
    (t.shadows ≠ s.shadows →
      i ∈ [Instr.drvInit, .evModePoll, .drvMsTrack, .drvMsSlew, .drvDecayTrack, .drvDecaySlew])

end Statements
end

