-- ==== Sys2Proof/Laws/State.lean ====
section
/-! SUPPORT. One lemma for each field under each plain update of the state: what the update leaves and what it writes.
All are true by rfl, so that no proof unfolds a record update. -/

namespace Sys2Proof.Machine

open Sys2Proof

/-! ### emit -/

@[simp] theorem emit_params (s : State) (e : Event) : (emit s e).params = s.params := rfl
@[simp] theorem emit_motorSteps (s : State) (e : Event) : (emit s e).motorSteps = s.motorSteps := rfl
@[simp] theorem emit_targetSteps (s : State) (e : Event) : (emit s e).targetSteps = s.targetSteps := rfl
@[simp] theorem emit_indexSteps (s : State) (e : Event) : (emit s e).indexSteps = s.indexSteps := rfl
@[simp] theorem emit_backlashSteps (s : State) (e : Event) : (emit s e).backlashSteps = s.backlashSteps := rfl
@[simp] theorem emit_backlashAmountSteps (s : State) (e : Event) : (emit s e).backlashAmountSteps = s.backlashAmountSteps := rfl
@[simp] theorem emit_originSteps (s : State) (e : Event) : (emit s e).originSteps = s.originSteps := rfl
@[simp] theorem emit_backlashDisabled (s : State) (e : Event) : (emit s e).backlashDisabled = s.backlashDisabled := rfl
@[simp] theorem emit_savedBacklash (s : State) (e : Event) : (emit s e).savedBacklash = s.savedBacklash := rfl
@[simp] theorem emit_freqBits (s : State) (e : Event) : (emit s e).freqBits = s.freqBits := rfl
@[simp] theorem emit_timerRunning (s : State) (e : Event) : (emit s e).timerRunning = s.timerRunning := rfl
@[simp] theorem emit_periodSub (s : State) (e : Event) : (emit s e).periodSub = s.periodSub := rfl
@[simp] theorem emit_step (s : State) (e : Event) : (emit s e).step = s.step := rfl
@[simp] theorem emit_dirLatch (s : State) (e : Event) : (emit s e).dirLatch = s.dirLatch := rfl
@[simp] theorem emit_rearm (s : State) (e : Event) : (emit s e).rearm = s.rearm := rfl
@[simp] theorem emit_pendingStep (s : State) (e : Event) : (emit s e).pendingStep = s.pendingStep := rfl
@[simp] theorem emit_dir (s : State) (e : Event) : (emit s e).dir = s.dir := rfl
@[simp] theorem emit_synchronized (s : State) (e : Event) : (emit s e).synchronized = s.synchronized := rfl
@[simp] theorem emit_handler (s : State) (e : Event) : (emit s e).handler = s.handler := rfl
@[simp] theorem emit_enabled (s : State) (e : Event) : (emit s e).enabled = s.enabled := rfl
@[simp] theorem emit_graceTick (s : State) (e : Event) : (emit s e).graceTick = s.graceTick := rfl
@[simp] theorem emit_modeState (s : State) (e : Event) : (emit s e).modeState = s.modeState := rfl
@[simp] theorem emit_slewHint (s : State) (e : Event) : (emit s e).slewHint = s.slewHint := rfl
@[simp] theorem emit_modeReq (s : State) (e : Event) : (emit s e).modeReq = s.modeReq := rfl
@[simp] theorem emit_cfg (s : State) (e : Event) : (emit s e).cfg = s.cfg := rfl
@[simp] theorem emit_driverReady (s : State) (e : Event) : (emit s e).driverReady = s.driverReady := rfl
@[simp] theorem emit_shadows (s : State) (e : Event) : (emit s e).shadows = s.shadows := rfl
@[simp] theorem emit_status (s : State) (e : Event) : (emit s e).status = s.status := rfl
@[simp] theorem emit_lastDrvStatus (s : State) (e : Event) : (emit s e).lastDrvStatus = s.lastDrvStatus := rfl
@[simp] theorem emit_lastSpiStatus (s : State) (e : Event) : (emit s e).lastSpiStatus = s.lastSpiStatus := rfl
@[simp] theorem emit_pins (s : State) (e : Event) : (emit s e).pins = s.pins := rfl
@[simp] theorem emit_faults (s : State) (e : Event) : (emit s e).faults = s.faults := rfl
@[simp] theorem emit_history (s : State) (e : Event) : (emit s e).history = s.history ++ [e] := rfl
@[simp] theorem emit_schedule (s : State) (e : Event) : (emit s e).schedule = s.schedule := rfl
@[simp] theorem emit_preempt (s : State) (e : Event) : (emit s e).preempt = s.preempt := rfl
@[simp] theorem emit_oracle (s : State) (e : Event) : (emit s e).oracle = s.oracle := rfl

/-! ### addFault -/

@[simp] theorem addFault_params (s : State) (f : ModelFault) : (addFault s f).params = s.params := rfl
@[simp] theorem addFault_motorSteps (s : State) (f : ModelFault) : (addFault s f).motorSteps = s.motorSteps := rfl
@[simp] theorem addFault_targetSteps (s : State) (f : ModelFault) : (addFault s f).targetSteps = s.targetSteps := rfl
@[simp] theorem addFault_indexSteps (s : State) (f : ModelFault) : (addFault s f).indexSteps = s.indexSteps := rfl
@[simp] theorem addFault_backlashSteps (s : State) (f : ModelFault) : (addFault s f).backlashSteps = s.backlashSteps := rfl
@[simp] theorem addFault_backlashAmountSteps (s : State) (f : ModelFault) : (addFault s f).backlashAmountSteps = s.backlashAmountSteps := rfl
@[simp] theorem addFault_originSteps (s : State) (f : ModelFault) : (addFault s f).originSteps = s.originSteps := rfl
@[simp] theorem addFault_backlashDisabled (s : State) (f : ModelFault) : (addFault s f).backlashDisabled = s.backlashDisabled := rfl
@[simp] theorem addFault_savedBacklash (s : State) (f : ModelFault) : (addFault s f).savedBacklash = s.savedBacklash := rfl
@[simp] theorem addFault_freqBits (s : State) (f : ModelFault) : (addFault s f).freqBits = s.freqBits := rfl
@[simp] theorem addFault_timerRunning (s : State) (f : ModelFault) : (addFault s f).timerRunning = s.timerRunning := rfl
@[simp] theorem addFault_periodSub (s : State) (f : ModelFault) : (addFault s f).periodSub = s.periodSub := rfl
@[simp] theorem addFault_step (s : State) (f : ModelFault) : (addFault s f).step = s.step := rfl
@[simp] theorem addFault_dirLatch (s : State) (f : ModelFault) : (addFault s f).dirLatch = s.dirLatch := rfl
@[simp] theorem addFault_rearm (s : State) (f : ModelFault) : (addFault s f).rearm = s.rearm := rfl
@[simp] theorem addFault_pendingStep (s : State) (f : ModelFault) : (addFault s f).pendingStep = s.pendingStep := rfl
@[simp] theorem addFault_dir (s : State) (f : ModelFault) : (addFault s f).dir = s.dir := rfl
@[simp] theorem addFault_synchronized (s : State) (f : ModelFault) : (addFault s f).synchronized = s.synchronized := rfl
@[simp] theorem addFault_handler (s : State) (f : ModelFault) : (addFault s f).handler = s.handler := rfl
@[simp] theorem addFault_enabled (s : State) (f : ModelFault) : (addFault s f).enabled = s.enabled := rfl
@[simp] theorem addFault_graceTick (s : State) (f : ModelFault) : (addFault s f).graceTick = s.graceTick := rfl
@[simp] theorem addFault_modeState (s : State) (f : ModelFault) : (addFault s f).modeState = s.modeState := rfl
@[simp] theorem addFault_slewHint (s : State) (f : ModelFault) : (addFault s f).slewHint = s.slewHint := rfl
@[simp] theorem addFault_modeReq (s : State) (f : ModelFault) : (addFault s f).modeReq = s.modeReq := rfl
@[simp] theorem addFault_cfg (s : State) (f : ModelFault) : (addFault s f).cfg = s.cfg := rfl
@[simp] theorem addFault_driverReady (s : State) (f : ModelFault) : (addFault s f).driverReady = s.driverReady := rfl
@[simp] theorem addFault_shadows (s : State) (f : ModelFault) : (addFault s f).shadows = s.shadows := rfl
@[simp] theorem addFault_status (s : State) (f : ModelFault) : (addFault s f).status = s.status := rfl
@[simp] theorem addFault_lastDrvStatus (s : State) (f : ModelFault) : (addFault s f).lastDrvStatus = s.lastDrvStatus := rfl
@[simp] theorem addFault_lastSpiStatus (s : State) (f : ModelFault) : (addFault s f).lastSpiStatus = s.lastSpiStatus := rfl
@[simp] theorem addFault_pins (s : State) (f : ModelFault) : (addFault s f).pins = s.pins := rfl
@[simp] theorem addFault_faults (s : State) (f : ModelFault) : (addFault s f).faults = s.faults.insert f := rfl
@[simp] theorem addFault_history (s : State) (f : ModelFault) : (addFault s f).history = s.history := rfl
@[simp] theorem addFault_schedule (s : State) (f : ModelFault) : (addFault s f).schedule = s.schedule := rfl
@[simp] theorem addFault_preempt (s : State) (f : ModelFault) : (addFault s f).preempt = s.preempt := rfl
@[simp] theorem addFault_oracle (s : State) (f : ModelFault) : (addFault s f).oracle = s.oracle := rfl

/-! ### beginMainLoop -/

@[simp] theorem beginMainLoop_params (s : State) : (beginMainLoop s).params = s.params := rfl
@[simp] theorem beginMainLoop_motorSteps (s : State) : (beginMainLoop s).motorSteps = s.motorSteps := rfl
@[simp] theorem beginMainLoop_targetSteps (s : State) : (beginMainLoop s).targetSteps = s.targetSteps := rfl
@[simp] theorem beginMainLoop_indexSteps (s : State) : (beginMainLoop s).indexSteps = s.indexSteps := rfl
@[simp] theorem beginMainLoop_backlashSteps (s : State) : (beginMainLoop s).backlashSteps = s.backlashSteps := rfl
@[simp] theorem beginMainLoop_backlashAmountSteps (s : State) : (beginMainLoop s).backlashAmountSteps = s.backlashAmountSteps := rfl
@[simp] theorem beginMainLoop_originSteps (s : State) : (beginMainLoop s).originSteps = s.originSteps := rfl
@[simp] theorem beginMainLoop_backlashDisabled (s : State) : (beginMainLoop s).backlashDisabled = s.backlashDisabled := rfl
@[simp] theorem beginMainLoop_savedBacklash (s : State) : (beginMainLoop s).savedBacklash = s.savedBacklash := rfl
@[simp] theorem beginMainLoop_freqBits (s : State) : (beginMainLoop s).freqBits = s.freqBits := rfl
@[simp] theorem beginMainLoop_timerRunning (s : State) : (beginMainLoop s).timerRunning = s.timerRunning := rfl
@[simp] theorem beginMainLoop_periodSub (s : State) : (beginMainLoop s).periodSub = s.periodSub := rfl
@[simp] theorem beginMainLoop_step (s : State) : (beginMainLoop s).step = s.step := rfl
@[simp] theorem beginMainLoop_dirLatch (s : State) : (beginMainLoop s).dirLatch = s.dirLatch := rfl
@[simp] theorem beginMainLoop_rearm (s : State) : (beginMainLoop s).rearm = s.rearm := rfl
@[simp] theorem beginMainLoop_pendingStep (s : State) : (beginMainLoop s).pendingStep = s.pendingStep := rfl
@[simp] theorem beginMainLoop_dir (s : State) : (beginMainLoop s).dir = s.dir := rfl
@[simp] theorem beginMainLoop_synchronized (s : State) : (beginMainLoop s).synchronized = s.synchronized := rfl
@[simp] theorem beginMainLoop_handler (s : State) : (beginMainLoop s).handler = s.handler := rfl
@[simp] theorem beginMainLoop_enabled (s : State) : (beginMainLoop s).enabled = s.enabled := rfl
@[simp] theorem beginMainLoop_graceTick (s : State) : (beginMainLoop s).graceTick = false := rfl
@[simp] theorem beginMainLoop_modeState (s : State) : (beginMainLoop s).modeState = s.modeState := rfl
@[simp] theorem beginMainLoop_slewHint (s : State) : (beginMainLoop s).slewHint = s.slewHint := rfl
@[simp] theorem beginMainLoop_modeReq (s : State) : (beginMainLoop s).modeReq = s.modeReq := rfl
@[simp] theorem beginMainLoop_cfg (s : State) : (beginMainLoop s).cfg = s.cfg := rfl
@[simp] theorem beginMainLoop_driverReady (s : State) : (beginMainLoop s).driverReady = s.driverReady := rfl
@[simp] theorem beginMainLoop_shadows (s : State) : (beginMainLoop s).shadows = s.shadows := rfl
@[simp] theorem beginMainLoop_status (s : State) : (beginMainLoop s).status = s.status := rfl
@[simp] theorem beginMainLoop_lastDrvStatus (s : State) : (beginMainLoop s).lastDrvStatus = s.lastDrvStatus := rfl
@[simp] theorem beginMainLoop_lastSpiStatus (s : State) : (beginMainLoop s).lastSpiStatus = s.lastSpiStatus := rfl
@[simp] theorem beginMainLoop_pins (s : State) : (beginMainLoop s).pins = s.pins := rfl
@[simp] theorem beginMainLoop_faults (s : State) : (beginMainLoop s).faults = s.faults := rfl
@[simp] theorem beginMainLoop_history (s : State) : (beginMainLoop s).history = s.history := rfl
@[simp] theorem beginMainLoop_schedule (s : State) : (beginMainLoop s).schedule = s.schedule := rfl
@[simp] theorem beginMainLoop_preempt (s : State) : (beginMainLoop s).preempt = s.preempt := rfl
@[simp] theorem beginMainLoop_oracle (s : State) : (beginMainLoop s).oracle = s.oracle := rfl

/-! ### respond -/

@[simp] theorem respond_params (s : State) (op : Byte) (r : Result) (v : Word) : (respond s op r v).params = s.params := rfl
@[simp] theorem respond_motorSteps (s : State) (op : Byte) (r : Result) (v : Word) : (respond s op r v).motorSteps = s.motorSteps := rfl
@[simp] theorem respond_targetSteps (s : State) (op : Byte) (r : Result) (v : Word) : (respond s op r v).targetSteps = s.targetSteps := rfl
@[simp] theorem respond_indexSteps (s : State) (op : Byte) (r : Result) (v : Word) : (respond s op r v).indexSteps = s.indexSteps := rfl
@[simp] theorem respond_backlashSteps (s : State) (op : Byte) (r : Result) (v : Word) : (respond s op r v).backlashSteps = s.backlashSteps := rfl
@[simp] theorem respond_backlashAmountSteps (s : State) (op : Byte) (r : Result) (v : Word) : (respond s op r v).backlashAmountSteps = s.backlashAmountSteps := rfl
@[simp] theorem respond_originSteps (s : State) (op : Byte) (r : Result) (v : Word) : (respond s op r v).originSteps = s.originSteps := rfl
@[simp] theorem respond_backlashDisabled (s : State) (op : Byte) (r : Result) (v : Word) : (respond s op r v).backlashDisabled = s.backlashDisabled := rfl
@[simp] theorem respond_savedBacklash (s : State) (op : Byte) (r : Result) (v : Word) : (respond s op r v).savedBacklash = s.savedBacklash := rfl
@[simp] theorem respond_freqBits (s : State) (op : Byte) (r : Result) (v : Word) : (respond s op r v).freqBits = s.freqBits := rfl
@[simp] theorem respond_timerRunning (s : State) (op : Byte) (r : Result) (v : Word) : (respond s op r v).timerRunning = s.timerRunning := rfl
@[simp] theorem respond_periodSub (s : State) (op : Byte) (r : Result) (v : Word) : (respond s op r v).periodSub = s.periodSub := rfl
@[simp] theorem respond_step (s : State) (op : Byte) (r : Result) (v : Word) : (respond s op r v).step = s.step := rfl
@[simp] theorem respond_dirLatch (s : State) (op : Byte) (r : Result) (v : Word) : (respond s op r v).dirLatch = s.dirLatch := rfl
@[simp] theorem respond_rearm (s : State) (op : Byte) (r : Result) (v : Word) : (respond s op r v).rearm = s.rearm := rfl
@[simp] theorem respond_pendingStep (s : State) (op : Byte) (r : Result) (v : Word) : (respond s op r v).pendingStep = s.pendingStep := rfl
@[simp] theorem respond_dir (s : State) (op : Byte) (r : Result) (v : Word) : (respond s op r v).dir = s.dir := rfl
@[simp] theorem respond_synchronized (s : State) (op : Byte) (r : Result) (v : Word) : (respond s op r v).synchronized = s.synchronized := rfl
@[simp] theorem respond_handler (s : State) (op : Byte) (r : Result) (v : Word) : (respond s op r v).handler = s.handler := rfl
@[simp] theorem respond_enabled (s : State) (op : Byte) (r : Result) (v : Word) : (respond s op r v).enabled = s.enabled := rfl
@[simp] theorem respond_graceTick (s : State) (op : Byte) (r : Result) (v : Word) : (respond s op r v).graceTick = s.graceTick := rfl
@[simp] theorem respond_modeState (s : State) (op : Byte) (r : Result) (v : Word) : (respond s op r v).modeState = s.modeState := rfl
@[simp] theorem respond_slewHint (s : State) (op : Byte) (r : Result) (v : Word) : (respond s op r v).slewHint = s.slewHint := rfl
@[simp] theorem respond_modeReq (s : State) (op : Byte) (r : Result) (v : Word) : (respond s op r v).modeReq = s.modeReq := rfl
@[simp] theorem respond_cfg (s : State) (op : Byte) (r : Result) (v : Word) : (respond s op r v).cfg = s.cfg := rfl
@[simp] theorem respond_driverReady (s : State) (op : Byte) (r : Result) (v : Word) : (respond s op r v).driverReady = s.driverReady := rfl
@[simp] theorem respond_shadows (s : State) (op : Byte) (r : Result) (v : Word) : (respond s op r v).shadows = s.shadows := rfl
@[simp] theorem respond_status (s : State) (op : Byte) (r : Result) (v : Word) : (respond s op r v).status = s.status := rfl
@[simp] theorem respond_lastDrvStatus (s : State) (op : Byte) (r : Result) (v : Word) : (respond s op r v).lastDrvStatus = s.lastDrvStatus := rfl
@[simp] theorem respond_lastSpiStatus (s : State) (op : Byte) (r : Result) (v : Word) : (respond s op r v).lastSpiStatus = s.lastSpiStatus := rfl
@[simp] theorem respond_pins (s : State) (op : Byte) (r : Result) (v : Word) : (respond s op r v).pins = s.pins := rfl
@[simp] theorem respond_faults (s : State) (op : Byte) (r : Result) (v : Word) : (respond s op r v).faults = s.faults := rfl
@[simp] theorem respond_history (s : State) (op : Byte) (r : Result) (v : Word) : (respond s op r v).history = s.history ++ [.resp op r v] := rfl
@[simp] theorem respond_schedule (s : State) (op : Byte) (r : Result) (v : Word) : (respond s op r v).schedule = s.schedule := rfl
@[simp] theorem respond_preempt (s : State) (op : Byte) (r : Result) (v : Word) : (respond s op r v).preempt = s.preempt := rfl
@[simp] theorem respond_oracle (s : State) (op : Byte) (r : Result) (v : Word) : (respond s op r v).oracle = s.oracle := rfl

/-! ### withSchedule -/

@[simp] theorem withSchedule_params (s : State) (rest : List Slot) : (s.withSchedule rest).params = s.params := rfl
@[simp] theorem withSchedule_motorSteps (s : State) (rest : List Slot) : (s.withSchedule rest).motorSteps = s.motorSteps := rfl
@[simp] theorem withSchedule_targetSteps (s : State) (rest : List Slot) : (s.withSchedule rest).targetSteps = s.targetSteps := rfl
@[simp] theorem withSchedule_indexSteps (s : State) (rest : List Slot) : (s.withSchedule rest).indexSteps = s.indexSteps := rfl
@[simp] theorem withSchedule_backlashSteps (s : State) (rest : List Slot) : (s.withSchedule rest).backlashSteps = s.backlashSteps := rfl
@[simp] theorem withSchedule_backlashAmountSteps (s : State) (rest : List Slot) : (s.withSchedule rest).backlashAmountSteps = s.backlashAmountSteps := rfl
@[simp] theorem withSchedule_originSteps (s : State) (rest : List Slot) : (s.withSchedule rest).originSteps = s.originSteps := rfl
@[simp] theorem withSchedule_backlashDisabled (s : State) (rest : List Slot) : (s.withSchedule rest).backlashDisabled = s.backlashDisabled := rfl
@[simp] theorem withSchedule_savedBacklash (s : State) (rest : List Slot) : (s.withSchedule rest).savedBacklash = s.savedBacklash := rfl
@[simp] theorem withSchedule_freqBits (s : State) (rest : List Slot) : (s.withSchedule rest).freqBits = s.freqBits := rfl
@[simp] theorem withSchedule_timerRunning (s : State) (rest : List Slot) : (s.withSchedule rest).timerRunning = s.timerRunning := rfl
@[simp] theorem withSchedule_periodSub (s : State) (rest : List Slot) : (s.withSchedule rest).periodSub = s.periodSub := rfl
@[simp] theorem withSchedule_step (s : State) (rest : List Slot) : (s.withSchedule rest).step = s.step := rfl
@[simp] theorem withSchedule_dirLatch (s : State) (rest : List Slot) : (s.withSchedule rest).dirLatch = s.dirLatch := rfl
@[simp] theorem withSchedule_rearm (s : State) (rest : List Slot) : (s.withSchedule rest).rearm = s.rearm := rfl
@[simp] theorem withSchedule_pendingStep (s : State) (rest : List Slot) : (s.withSchedule rest).pendingStep = s.pendingStep := rfl
@[simp] theorem withSchedule_dir (s : State) (rest : List Slot) : (s.withSchedule rest).dir = s.dir := rfl
@[simp] theorem withSchedule_synchronized (s : State) (rest : List Slot) : (s.withSchedule rest).synchronized = s.synchronized := rfl
@[simp] theorem withSchedule_handler (s : State) (rest : List Slot) : (s.withSchedule rest).handler = s.handler := rfl
@[simp] theorem withSchedule_enabled (s : State) (rest : List Slot) : (s.withSchedule rest).enabled = s.enabled := rfl
@[simp] theorem withSchedule_graceTick (s : State) (rest : List Slot) : (s.withSchedule rest).graceTick = s.graceTick := rfl
@[simp] theorem withSchedule_modeState (s : State) (rest : List Slot) : (s.withSchedule rest).modeState = s.modeState := rfl
@[simp] theorem withSchedule_slewHint (s : State) (rest : List Slot) : (s.withSchedule rest).slewHint = s.slewHint := rfl
@[simp] theorem withSchedule_modeReq (s : State) (rest : List Slot) : (s.withSchedule rest).modeReq = s.modeReq := rfl
@[simp] theorem withSchedule_cfg (s : State) (rest : List Slot) : (s.withSchedule rest).cfg = s.cfg := rfl
@[simp] theorem withSchedule_driverReady (s : State) (rest : List Slot) : (s.withSchedule rest).driverReady = s.driverReady := rfl
@[simp] theorem withSchedule_shadows (s : State) (rest : List Slot) : (s.withSchedule rest).shadows = s.shadows := rfl
@[simp] theorem withSchedule_status (s : State) (rest : List Slot) : (s.withSchedule rest).status = s.status := rfl
@[simp] theorem withSchedule_lastDrvStatus (s : State) (rest : List Slot) : (s.withSchedule rest).lastDrvStatus = s.lastDrvStatus := rfl
@[simp] theorem withSchedule_lastSpiStatus (s : State) (rest : List Slot) : (s.withSchedule rest).lastSpiStatus = s.lastSpiStatus := rfl
@[simp] theorem withSchedule_pins (s : State) (rest : List Slot) : (s.withSchedule rest).pins = s.pins := rfl
@[simp] theorem withSchedule_faults (s : State) (rest : List Slot) : (s.withSchedule rest).faults = s.faults := rfl
@[simp] theorem withSchedule_history (s : State) (rest : List Slot) : (s.withSchedule rest).history = s.history := rfl
@[simp] theorem withSchedule_schedule (s : State) (rest : List Slot) : (s.withSchedule rest).schedule = rest := rfl
@[simp] theorem withSchedule_preempt (s : State) (rest : List Slot) : (s.withSchedule rest).preempt = s.preempt := rfl
@[simp] theorem withSchedule_oracle (s : State) (rest : List Slot) : (s.withSchedule rest).oracle = s.oracle := rfl

end Sys2Proof.Machine
end

