-- ==== Sys2Proof/Laws/Ops.lean ====
section
/-! SUPPORT. What each shared operation can do, said once: the range check, the frame of a host command, the tick and the
points at which it may preempt, and the timer's arming. -/

namespace Sys2Proof.Laws

open Sys2Proof Sys2Proof.Machine Sys2Proof.Safety

/-! ### The range check -/

theorem fitsS32_iff {v : Int} : fitsS32 v = true ↔ InS32 v := by simp [fitsS32, InS32]

theorem chk_of_inS32 {v : Int} (h : InS32 v) : chk v = some (wordOfInt v) := by simp [chk, fitsS32_iff.2 h]

theorem chk_of_not_inS32 {v : Int} (h : ¬InS32 v) : chk v = none := by
  unfold chk
  rw [if_neg]
  rwa [fitsS32_iff]

theorem toInt_wordOfInt {v : Int} (h : InS32 v) : (wordOfInt v).toInt = v := by
  simp only [wordOfInt, BitVec.toInt_ofInt, Int.bmod_def]
  omega

theorem toInt_inS32 (w : Word) : InS32 w.toInt := by
  have h1 := w.toInt_lt
  have h2 := w.le_toInt
  norm_num at h1 h2
  exact ⟨h2, by omega⟩

@[simp] theorem wordOfInt_toInt (w : Word) : wordOfInt w.toInt = w := by simp [wordOfInt]

@[simp] theorem chk_toInt (w : Word) : chk w.toInt = some w := by rw [chk_of_inS32 (toInt_inS32 w), wordOfInt_toInt]

/-- What `chk` stores is the value itself. -/
theorem chk_eq_some {v : Int} {w : Word} (h : chk v = some w) : InS32 v ∧ w = wordOfInt v ∧ w.toInt = v := by
  by_cases hv : InS32 v
  · rw [chk_of_inS32 hv] at h
    cases h
    exact ⟨hv, rfl, toInt_wordOfInt hv⟩
  · rw [chk_of_not_inS32 hv] at h
    cases h

theorem storeChecked_of_inS32 {v : Int} (h : InS32 v) (k : Word → State) :
    storeChecked v k = .done (k (wordOfInt v)) 0#32 := by simp [storeChecked, chk_of_inS32 h]

theorem storeChecked_of_not_inS32 {v : Int} (h : ¬InS32 v) (k : Word → State) :
    storeChecked v k = .modelFault .overflow := by simp [storeChecked, chk_of_not_inS32 h]

theorem valueChecked_of_inS32 {v : Int} (h : InS32 v) (s : State) :
    valueChecked s v = .done s (wordOfInt v) := by simp [valueChecked, chk_of_inS32 h]

theorem valueChecked_of_not_inS32 {v : Int} (h : ¬InS32 v) (s : State) :
    valueChecked s v = .modelFault .overflow := by simp [valueChecked, chk_of_not_inS32 h]

theorem trackingModes_iff {m : ModeState} : trackingModes m = true ↔ m = .tracking ∨ m = .slewingRequest := by
  cases m <;> decide

theorem switchable_iff {s : State} :
    switchable s = true ↔ s.params.modeSwitchSupported = true ∧ 1 < homeStepsOf s.cfg ∧ s.driverReady = true := by
  unfold switchable
  rw [Bool.and_eq_true, Bool.and_eq_true, decide_eq_true_eq, and_assoc]
  exact Iff.rfl

theorem atBoundary_iff {s : State} :
    atBoundary s = true ↔ (s.motorSteps.toInt + s.backlashSteps.toInt) % homeStepsOf s.cfg = 0 := by
  unfold atBoundary mod0
  rw [beq_iff_eq]
  exact Iff.rfl

/-! ### The frame of a host command -/

theorem hostCommand_done {s t : State} {op : Byte} {v : Word} {body : State → Answer}
    (h : body (beginMainLoop s) = .done t v) : hostCommand s op body = .next (respond t op .ok v) := by
  simp [hostCommand, h, answerCommand]

/-- The same, with the result in the form the statements use. -/
theorem hostCommand_answered {s t : State} {op : Byte} {v : Word} {body : State → Answer}
    (h : body (beginMainLoop s) = .done (beginMainLoop t) v) :
    hostCommand s op body = .next (answered t op .ok v) := by
  simp only [hostCommand, h, answerCommand]
  rfl

theorem hostCommand_raise {s : State} {op : Byte} {r : Result} {body : State → Answer}
    (h : body (beginMainLoop s) = .raise r) : hostCommand s op body = .next (answered s op r 0#32) := by
  simp only [hostCommand, h, answerCommand]
  rfl

theorem hostCommand_failed {s t : State} {op : Byte} {r : Result} {body : State → Answer}
    (h : body (beginMainLoop s) = .failed t r) : hostCommand s op body = .next (respond t op r 0#32) := by
  simp [hostCommand, h, answerCommand]

theorem hostCommand_modelFault {s : State} {op : Byte} {f : ModelFault} {body : State → Answer}
    (h : body (beginMainLoop s) = .modelFault f) :
    hostCommand s op body = .next (answered { s with faults := s.faults.insert f } op .fault 0#32) := by
  simp only [hostCommand, h, answerCommand]
  rfl

/-- Every host command answers a next state, in one of four ways. -/
theorem hostCommand_cases (s : State) (op : Byte) (body : State → Answer) :
    (∃ t v, body (beginMainLoop s) = .done t v ∧ hostCommand s op body = .next (respond t op .ok v)) ∨
    (∃ r, body (beginMainLoop s) = .raise r ∧ hostCommand s op body = .next (answered s op r 0#32)) ∨
    (∃ t r, body (beginMainLoop s) = .failed t r ∧ hostCommand s op body = .next (respond t op r 0#32)) ∨
    (∃ f, body (beginMainLoop s) = .modelFault f ∧
      hostCommand s op body = .next (answered { s with faults := s.faults.insert f } op .fault 0#32)) := by
  cases h : body (beginMainLoop s) with
  | done t v => exact .inl ⟨t, v, rfl, hostCommand_done h⟩
  | raise r => exact .inr (.inl ⟨r, rfl, hostCommand_raise h⟩)
  | failed t r => exact .inr (.inr (.inl ⟨t, r, rfl, hostCommand_failed h⟩))
  | modelFault f => exact .inr (.inr (.inr ⟨f, rfl, hostCommand_modelFault h⟩))

/-- Setting EN, the one pin whose level is always known. -/
theorem setPin_en_eq (s : State) (l : Level) :
    setPin s .en l = { s with
      pins := { s.pins with en := l }, history := s.history ++ if s.pins.en = l then [] else [.pin .en l] } := by
  unfold setPin pinLevel storePin
  simp only [Option.some.injEq]
  by_cases h : s.pins.en = l
  · simp only [h, if_true, List.append_nil]
    rw [← h]
  · simp only [h, if_false]
    rfl

/-! ### The tick -/

/-- What the tick does to the direction and the history in one step. -/
theorem pulseIn_eq (s : State) (d : Dir) :
    pulseIn s d = { s with dir := d, history := s.history ++ stepEvents s d } := by
  unfold pulseIn setDir stepEvents
  by_cases h : s.dir = d
  · simp only [h, if_true, List.nil_append]
    subst h
    rfl
  · simp [h, emit]

/-- The re-arm at the end of a tick that works. -/
theorem consumeRearm_eq (s : State) :
    consumeRearm s = { s with step := if s.rearm = true then s.pendingStep else s.step, rearm := false } := by
  unfold consumeRearm
  cases h : s.rearm
  · simp only [Bool.false_eq_true, if_false]
    rw [← h]
  · simp

/-- The auto-advance changes the target alone, and only when it is allowed. -/
theorem autoAdvance_eq_some {s t : State} {allowed : Bool} (h : autoAdvance s allowed = some t) :
    (s.synchronized = true ∧ allowed = true ∧ InS32 (s.targetSteps.toInt + s.step.toInt) ∧
      t = { s with targetSteps := wordOfInt (s.targetSteps.toInt + s.step.toInt) }) ∨
    ((s.synchronized = false ∨ allowed = false) ∧ t = s) := by
  unfold autoAdvance at h
  split at h
  · rename_i hc
    obtain ⟨hs, ha⟩ := Bool.and_eq_true_iff.1 hc
    obtain ⟨w, hw, rfl⟩ := Option.map_eq_some_iff.1 h
    obtain ⟨hv, rfl, -⟩ := chk_eq_some hw
    exact .inl ⟨hs, ha, hv, rfl⟩
  · rename_i hc
    refine .inr ⟨?_, (Option.some.inj h).symm⟩
    cases hs : s.synchronized
    · exact .inl rfl
    · cases ha : allowed
      · exact .inr rfl
      · simp [hs, ha] at hc

/-- A standard move: one step of the backlash or of the motor toward the target, or none at the target. -/
theorem stdMove_eq_some {s t : State} (h : stdMove s = some t) :
    (s.targetSteps.toInt < s.motorSteps.toInt ∧ 0 < s.backlashSteps.toInt ∧
      t = { s with backlashSteps := wordOfInt (s.backlashSteps.toInt - 1), dir := .rev
                   history := s.history ++ stepEvents s .rev }) ∨
    (s.targetSteps.toInt < s.motorSteps.toInt ∧ s.backlashSteps.toInt ≤ 0 ∧ InS32 (s.motorSteps.toInt - 1) ∧
      t = { s with motorSteps := wordOfInt (s.motorSteps.toInt - 1), dir := .rev
                   history := s.history ++ stepEvents s .rev }) ∨
    (s.motorSteps.toInt < s.targetSteps.toInt ∧ s.backlashSteps.toInt < amountEff s ∧
      t = { s with backlashSteps := wordOfInt (s.backlashSteps.toInt + 1), dir := .fwd
                   history := s.history ++ stepEvents s .fwd }) ∨
    (s.motorSteps.toInt < s.targetSteps.toInt ∧ amountEff s ≤ s.backlashSteps.toInt ∧
      InS32 (s.motorSteps.toInt + 1) ∧
      t = { s with motorSteps := wordOfInt (s.motorSteps.toInt + 1), dir := .fwd
                   history := s.history ++ stepEvents s .fwd }) ∨
    (s.motorSteps.toInt = s.targetSteps.toInt ∧ t = s) := by
  unfold stdMove at h
  split at h
  · rename_i h1
    split at h
    · rename_i h2
      rw [pulseIn_eq] at h
      exact .inl ⟨h1, h2, (Option.some.inj h).symm⟩
    · rename_i h2
      obtain ⟨w, hw, rfl⟩ := Option.map_eq_some_iff.1 h
      obtain ⟨hv, rfl, -⟩ := chk_eq_some hw
      exact .inr (.inl ⟨h1, by omega, hv, pulseIn_eq _ _⟩)
  · rename_i h1
    split at h
    · rename_i h2
      split at h
      · rename_i h3
        rw [pulseIn_eq] at h
        exact .inr (.inr (.inl ⟨h2, h3, (Option.some.inj h).symm⟩))
      · rename_i h3
        obtain ⟨w, hw, rfl⟩ := Option.map_eq_some_iff.1 h
        obtain ⟨hv, rfl, -⟩ := chk_eq_some hw
        exact .inr (.inr (.inr (.inl ⟨h2, by omega, hv, pulseIn_eq _ _⟩)))
    · rename_i h2
      exact .inr (.inr (.inr (.inr ⟨by omega, (Option.some.inj h).symm⟩)))

/-- A fast move: `homeSteps` in the latched direction and never past the target, or none. -/
theorem fastMove_eq_some {s t : State} (h : fastMove s = some t) :
    (s.dir = .fwd ∧ homeSteps s ≤ s.targetSteps.toInt - s.motorSteps.toInt ∧
      InS32 (s.motorSteps.toInt + homeSteps s) ∧
      t = { s with motorSteps := wordOfInt (s.motorSteps.toInt + homeSteps s)
                   history := s.history ++ [.pulse .fwd] }) ∨
    (s.dir = .rev ∧ homeSteps s ≤ s.motorSteps.toInt - s.targetSteps.toInt ∧
      InS32 (s.motorSteps.toInt - homeSteps s) ∧
      t = { s with motorSteps := wordOfInt (s.motorSteps.toInt - homeSteps s)
                   history := s.history ++ [.pulse .rev] }) ∨
    (¬(s.dir = .fwd ∧ homeSteps s ≤ s.targetSteps.toInt - s.motorSteps.toInt) ∧
      ¬(s.dir = .rev ∧ homeSteps s ≤ s.motorSteps.toInt - s.targetSteps.toInt) ∧ t = s) := by
  unfold fastMove at h
  split at h
  · rename_i h1
    obtain ⟨w, hw, rfl⟩ := Option.map_eq_some_iff.1 h
    obtain ⟨hv, rfl, -⟩ := chk_eq_some hw
    exact .inl ⟨h1.1, h1.2, hv, rfl⟩
  · rename_i h1
    split at h
    · rename_i h2
      obtain ⟨w, hw, rfl⟩ := Option.map_eq_some_iff.1 h
      obtain ⟨hv, rfl, -⟩ := chk_eq_some hw
      exact .inr (.inl ⟨h2.1, h2.2, hv, rfl⟩)
    · rename_i h2
      exact .inr (.inr ⟨h1, h2, (Option.some.inj h).symm⟩)

/-- A standard tick: the gate, an idle tick, or an advance and a move. -/
theorem stdTick_eq_ok {s t : State} (h : stdTick s = .ok t) :
    (gateOpen s = true ∧ t = { s with modeState := .slewingPause, modeReq := true }) ∨
    (gateOpen s = false ∧ (trackingModes s.modeState && s.enabled) = false ∧ t = s) ∨
    (gateOpen s = false ∧ trackingModes s.modeState = true ∧ s.enabled = true ∧
      ∃ u v, autoAdvance s (!inBacklash s) = some u ∧ stdMove u = some v ∧ t = consumeRearm v) := by
  unfold stdTick at h
  split at h
  · exact .inl ⟨‹_›, (Except.ok.inj h).symm⟩
  · rename_i hg
    have hg : gateOpen s = false := by simpa using hg
    split at h
    · rename_i hi
      exact .inr (.inl ⟨hg, by rwa [Bool.not_eq_true'] at hi, (Except.ok.inj h).symm⟩)
    · rename_i hi
      split at h
      · rename_i v hv
        obtain ⟨u, hu, hv⟩ := Option.bind_eq_some_iff.1 hv
        simp only [Bool.not_eq_true', Bool.not_eq_false] at hi
        obtain ⟨h1, h2⟩ := Bool.and_eq_true_iff.1 hi
        exact .inr (.inr ⟨hg, h1, h2, u, v, hu, hv, (Except.ok.inj h).symm⟩)
      · cases h

/-- A fast tick: an idle tick, or an advance and a move. -/
theorem fastTick_eq_ok {s t : State} (h : fastTick s = .ok t) :
    (¬(s.modeState = .slewing ∧ s.enabled = true) ∧ t = s) ∨
    (s.modeState = .slewing ∧ s.enabled = true ∧
      ∃ u v, autoAdvance s true = some u ∧ fastMove u = some v ∧ t = consumeRearm v) := by
  unfold fastTick at h
  split at h
  · rename_i hi
    refine .inl ⟨fun hc => ?_, (Except.ok.inj h).symm⟩
    simp [hc.1, hc.2] at hi
  · rename_i hi
    split at h
    · rename_i v hv
      obtain ⟨u, hu, hv⟩ := Option.bind_eq_some_iff.1 hv
      simp only [Bool.not_eq_true', Bool.not_eq_false] at hi
      obtain ⟨h1, h2⟩ := Bool.and_eq_true_iff.1 hi
      exact .inr ⟨by simpa using h1, h2, u, v, hu, hv, (Except.ok.inj h).symm⟩
    · cases h

/-- A tick: not possible, a model fault alone, or the installed handler. -/
theorem takeTick_cases (s : State) :
    (tickEnabled s = false ∧ takeTick s = s) ∨
    (tickEnabled s = true ∧ ∃ f, runHandler (spendGrace s) = .error f ∧ takeTick s = addFault s f) ∨
    (tickEnabled s = true ∧ ∃ t, runHandler (spendGrace s) = .ok t ∧ takeTick s = t) := by
  unfold takeTick
  cases he : tickEnabled s
  · exact .inl ⟨rfl, rfl⟩
  · cases hr : runHandler (spendGrace s) with
    | ok t => exact .inr (.inr ⟨rfl, t, rfl, by simp⟩)
    | error f => exact .inr (.inl ⟨rfl, f, rfl, by simp⟩)

/-- The state that the handler sees: the grace tick is spent unless the timer runs. -/
theorem spendGrace_eq (s : State) : spendGrace s = { s with graceTick := s.graceTick && s.timerRunning } := by
  unfold spendGrace
  cases h : s.timerRunning
  · simp
  · simp only [if_true, Bool.and_true]
    rw [← h]

/-- A property that every tick keeps is kept by any number of ticks. -/
theorem runTicks_induct {P : State → Prop} (hP : ∀ s, P s → P (takeTick s)) (n : Nat) (s : State) (h : P s) :
    P (runTicks n s) := by
  induction n generalizing s with
  | zero => exact h
  | succ n ih => exact ih _ (hP _ h)

/-- A property that every tick keeps, and that says nothing of the ticks to come, is kept at every preemption point. -/
theorem preemptPoint_induct {P : State → Prop} (hP : ∀ s, P s → P (takeTick s))
    (hpre : ∀ s l, P s → P { s with preempt := l }) (s : State) (h : P s) : P (preemptPoint s) := by
  unfold preemptPoint
  split
  · exact h
  · exact runTicks_induct hP _ _ (hpre _ _ h)

theorem preemptPoint_of_nil {s : State} (h : s.preempt = []) : preemptPoint s = s := by
  unfold preemptPoint
  rw [h]

/-! ### Arming the timer -/

/-- The step part of ARM, field by field. -/
theorem armStep_eq (s : State) (d : Sign) :
    armStep s d = { s with
      dirLatch := d
      rearm := s.rearm || decide (s.dirLatch ≠ d)
      step := if s.dirLatch ≠ d then 0#32 else if s.rearm = true then s.step else wordOfInt (d.toInt * armMult s)
      pendingStep :=
        if s.dirLatch ≠ d ∨ s.rearm = true then wordOfInt (d.toInt * armMult s) else s.pendingStep } := by
  unfold armStep
  by_cases hd : s.dirLatch = d
  · subst hd
    cases hr : s.rearm
    · simp only [ne_eq, not_true_eq_false, if_false, Bool.false_eq_true, decide_false, Bool.or_false, or_self]
    · simp only [ne_eq, not_true_eq_false, if_false, if_true, decide_false, Bool.or_false, or_true]
  · simp [hd, Ne.symm hd]

/-- ARM: the timer stops, the timer runs, or a timer parameter is outside its domain. -/
theorem arm_cases (s : State) :
    (classify s.freqBits = .stop ∧
      arm s = .ok (armStep { s with
        graceTick := s.graceTick || s.timerRunning, timerRunning := false, periodSub := 0 } .zero)) ∨
    (∃ d n m, classify s.freqBits = .run d n m ∧ timerParamsOk s.params = true ∧
      arm s = .ok (armStep { s with
        periodSub := periodOf s.params n m (armMult s), timerRunning := true, graceTick := false } d)) ∨
    (∃ d n m, classify s.freqBits = .run d n m ∧ timerParamsOk s.params = false ∧ arm s = .error .unmodelled) := by
  unfold arm
  cases h : classify s.freqBits with
  | stop => exact .inl ⟨rfl, rfl⟩
  | run d n m =>
    cases hp : timerParamsOk s.params
    · exact .inr (.inr ⟨d, n, m, rfl, rfl, rfl⟩)
    · exact .inr (.inl ⟨d, n, m, rfl, rfl, rfl⟩)

end Sys2Proof.Laws
end

