-- ==== Sys2Proof/Laws/Driver.lean ====
section
/-! SUPPORT. What the driver operations can do: they send transactions and set shadows and pins, and ticks run in between.
A property that neither ticks nor those updates disturb is kept by every one of them. -/

namespace Sys2Proof.Laws

open Sys2Proof Sys2Proof.Machine Sys2Proof.Safety

/-- The events a driver operation causes: pin changes and transactions. -/
abbrev DriverEvents (evs : List Event) : Prop := ∀ e ∈ evs, isPulse e = false ∧ isResp e = false

/-- A property that a tick keeps, that a driver's own updates keep, and that says nothing of the ticks to come. -/
structure Stable (P : State → Prop) : Prop where
  tick : ∀ s, P s → P (takeTick s)
  preempt : ∀ s l, P s → P { s with preempt := l }
  driver : ∀ s sh pn o evs, DriverEvents evs → P s →
    P { s with shadows := sh, pins := pn, oracle := o, history := s.history ++ evs }

theorem driverEvents_nil : DriverEvents [] := by simp [DriverEvents]

theorem driverEvents_pin (p : Pin) (l : Level) : DriverEvents [.pin p l] := by simp [DriverEvents, isPulse, isResp]

theorem driverEvents_txn (t : Transaction) : DriverEvents [.txn t] := by simp [DriverEvents, isPulse, isResp]

variable {P : State → Prop}

theorem Stable.preemptPoint (hP : Stable P) {s : State} (h : P s) : P (preemptPoint s) :=
  preemptPoint_induct hP.tick hP.preempt s h

theorem Stable.emit (hP : Stable P) {s : State} (e : Event) (he : DriverEvents [e]) (h : P s) : P (emit s e) :=
  hP.driver s s.shadows s.pins s.oracle [e] he h

theorem Stable.shadows (hP : Stable P) {s : State} (sh : Shadows) (h : P s) : P { s with shadows := sh } := by
  have := hP.driver s sh s.pins s.oracle [] driverEvents_nil h
  simpa using this

theorem storePin_eq (s : State) (p : Pin) (level : Level) :
    storePin s p level = { s with pins := (storePin s p level).pins } := by
  cases p <;> rfl

theorem Stable.setPin (hP : Stable P) {s : State} (p : Pin) (level : Level) (h : P s) : P (setPin s p level) := by
  unfold Machine.setPin
  split
  · exact h
  · rw [storePin_eq]
    exact hP.driver s s.shadows _ s.oracle [_] (driverEvents_pin _ _) h

theorem Stable.drivePin (hP : Stable P) {s : State} (p : Pin) (level : Level) (h : P s) : P (drivePin s p level) := by
  unfold Machine.drivePin
  split
  · exact h
  · exact hP.setPin _ _ (hP.preemptPoint h)

theorem Stable.spiTxn (hP : Stable P) {s : State} (out : BitVec 40) (h : P s) : P (spiTxn s out).2 :=
  hP.driver s s.shadows s.pins _ [_] (driverEvents_txn _) h

theorem Stable.uartReadTxn (hP : Stable P) {s : State} (out : List Byte) (h : P s) : P (uartReadTxn s out).2 :=
  hP.driver s s.shadows s.pins _ [_] (driverEvents_txn _) h

theorem Stable.sendRegister (hP : Stable P) {s : State} (r : TmcReg) (v : Word) (h : P s) : P (sendRegister s r v) := by
  unfold Machine.sendRegister
  split
  · exact hP.spiTxn _ h
  · exact hP.emit _ (driverEvents_txn _) h
  · exact h

theorem Stable.regWrite (hP : Stable P) {s : State} (r : TmcReg) (v : Word) (h : P s) : P (regWrite s r v) := by
  unfold Machine.regWrite
  split
  · exact h
  · exact hP.shadows _ (hP.sendRegister r v (hP.preemptPoint h))

theorem Stable.setMicrostep (hP : Stable P) {s : State} (x : Phase) (h : P s) : P (setMicrostep s x) := by
  unfold Machine.setMicrostep
  split
  · split
    · exact hP.drivePin _ _ (hP.drivePin _ _ (hP.drivePin _ _ h))
    · exact h
  · exact hP.regWrite _ _ (hP.regWrite _ _ h)
  · exact hP.regWrite _ _ (hP.regWrite _ _ h)

theorem Stable.setDecay (hP : Stable P) {s : State} (x : Phase) (h : P s) : P (setDecay s x) := by
  unfold Machine.setDecay
  split
  · split
    · exact hP.drivePin _ _ h
    · exact h
  · exact hP.regWrite _ _ h
  · exact hP.regWrite _ _ h

theorem Stable.driverSetup (hP : Stable P) {s : State} (h : P s) : P (driverSetup s) := by
  unfold Machine.driverSetup
  split
  · exact hP.setDecay _ (hP.setMicrostep _ h)
  · exact hP.regWrite _ _ (hP.setDecay _ (hP.regWrite _ _ (hP.setMicrostep _ h)))
  · exact hP.regWrite _ _ (hP.setDecay _ (hP.regWrite _ _ (hP.setMicrostep _ h)))

theorem Stable.regReadSpi (hP : Stable P) {s : State} (r : TmcReg) (h : P s) : P (regReadSpi s r).2 :=
  hP.spiTxn _ (hP.preemptPoint (hP.spiTxn _ (hP.preemptPoint h)))

theorem Stable.regReadUart (hP : Stable P) {s : State} (r : TmcReg) (h : P s) : P (regReadUart s r).2 :=
  hP.uartReadTxn _ (hP.preemptPoint h)

/-- The status read ends in a model fault or in a stable state whose status registers alone are rewritten. -/
theorem updateStatus_cases (hP : Stable P) {s : State} (h : P s) :
    (updateStatus s = .error .unmodelled) ∨
    ∃ u st d b, P u ∧ updateStatus s = .ok { u with status := st, lastDrvStatus := d, lastSpiStatus := b } := by
  unfold updateStatus
  split
  · refine .inr ?_
    unfold genericStatus
    split
    · refine ⟨{ s with oracle := (nextFaultLevel s.oracle).2 }, _, s.lastDrvStatus, s.lastSpiStatus, ?_, rfl⟩
      have := hP.driver s s.shadows s.pins (nextFaultLevel s.oracle).2 [] driverEvents_nil h
      simpa using this
    · exact ⟨s, _, s.lastDrvStatus, s.lastSpiStatus, h, rfl⟩
  · split
    · exact .inr ⟨_, _, _, _, hP.regReadSpi _ h, rfl⟩
    · exact .inl rfl
  · split
    · refine .inr ?_
      split
      · exact ⟨(regReadUart s .drvStatus).2, _, (regReadUart s .drvStatus).2.lastDrvStatus,
          (regReadUart s .drvStatus).2.lastSpiStatus, hP.regReadUart _ h, rfl⟩
      · exact ⟨(regReadUart s .drvStatus).2, _, _, (regReadUart s .drvStatus).2.lastSpiStatus, hP.regReadUart _ h, rfl⟩
    · exact .inl rfl

/-- A tick writes nothing but the sequencer's fields. -/
theorem takeTick_onlyTickState (s : State) : OnlyTickState s (takeTick s) := by
  rcases takeTick_cases s with ⟨-, h⟩ | ⟨-, f, -, h⟩ | ⟨-, t, hr, h⟩
  · rw [h]; rfl
  · rw [h]; rfl
  · rw [h]
    rw [spendGrace_eq] at hr
    unfold runHandler at hr
    split at hr
    · rcases stdTick_eq_ok hr with ⟨-, rfl⟩ | ⟨-, -, rfl⟩ | ⟨-, -, -, u, v, hu, hv, rfl⟩
      · rfl
      · rfl
      · rw [consumeRearm_eq]
        rcases autoAdvance_eq_some hu with ⟨-, -, -, rfl⟩ | ⟨-, rfl⟩ <;>
          rcases stdMove_eq_some hv with ⟨-, -, rfl⟩ | ⟨-, -, -, rfl⟩ | ⟨-, -, rfl⟩ | ⟨-, -, -, rfl⟩ | ⟨-, rfl⟩ <;> rfl
    · rcases fastTick_eq_ok hr with ⟨-, rfl⟩ | ⟨-, -, u, v, hu, hv, rfl⟩
      · rfl
      · rw [consumeRearm_eq]
        rcases autoAdvance_eq_some hu with ⟨-, -, -, rfl⟩ | ⟨-, rfl⟩ <;>
          rcases fastMove_eq_some hv with ⟨-, -, -, rfl⟩ | ⟨-, -, -, rfl⟩ | ⟨-, -, rfl⟩ <;> rfl

/-- What a driver operation and the ticks in between it may change is stable. -/
theorem stable_onlyDriverAndTicks (s : State) : Stable (OnlyDriverAndTicks s) where
  tick t h := by
    have h2 := takeTick_onlyTickState t
    unfold OnlyDriverAndTicks OnlyTickState at *
    generalize takeTick t = u at *
    rw [h2, h]
  preempt t l h := by
    unfold OnlyDriverAndTicks at *
    rw [h]
  driver t sh pn o evs _ h := by
    unfold OnlyDriverAndTicks at *
    rw [h]

theorem onlyDriverAndTicks_refl (s : State) : OnlyDriverAndTicks s s := rfl

end Sys2Proof.Laws
end

