-- ==== Sys2Proof/Laws/Invariant.lean ====
section
/-! SUPPORT. How a property of states is carried through a whole step: what one tick can do (`takeTick_induct`), what ARM and
the settling of the direction leave alone, and `Kept P`: the updates of the model under which `P` must be closed for every
step to keep it. -/

namespace Sys2Proof.Laws

open Sys2Proof Sys2Proof.Machine Sys2Proof.Safety

/-- A property of states survives a tick if it survives the loss of the grace tick, a model fault, the gate, and the
motion of either handler, whose result is given by `autoAdvance`, `stdMove` or `fastMove`, and `consumeRearm`. -/
theorem takeTick_induct {P : State → Prop}
    (hgrace : ∀ s g, P s → P { s with graceTick := s.graceTick && g })
    (hfault : ∀ s f, P s → P (addFault s f))
    (hgate : ∀ s, P s → gateOpen s = true → s.handler = .standard →
      P { s with modeState := .slewingPause, modeReq := true })
    (hstd : ∀ s t a u v, P s → s.handler = .standard → gateOpen s = false → trackingModes s.modeState = true →
      autoAdvance s a = some u → stdMove u = some v → t = consumeRearm v → P t)
    (hfast : ∀ s t a u v, P s → s.handler = .fast → s.modeState = .slewing → autoAdvance s a = some u →
      fastMove u = some v → t = consumeRearm v → P t)
    (s : State) (h : P s) : P (takeTick s) := by
  rcases takeTick_cases s with ⟨-, e⟩ | ⟨-, f, -, e⟩ | ⟨-, t, hr, e⟩ <;> rw [e]
  · exact h
  · exact hfault _ _ h
  · rw [spendGrace_eq] at hr
    have h' := hgrace s s.timerRunning h
    unfold runHandler at hr
    split at hr
    · rename_i hh
      rcases stdTick_eq_ok hr with ⟨ho, rfl⟩ | ⟨-, -, rfl⟩ | ⟨ho, hm, -, u, v, hu, hv, rfl⟩
      · exact hgate _ h' ho hh
      · exact h'
      · exact hstd _ _ _ _ _ h' hh ho hm hu hv rfl
    · rename_i hh
      rcases fastTick_eq_ok hr with ⟨-, rfl⟩ | ⟨hm, -, u, v, hu, hv, rfl⟩
      · exact h'
      · exact hfast _ _ _ _ _ h' hh hm hu hv rfl

/-- ARM touches only the sequencer's registers. -/
theorem arm_frame {s t : State} (h : arm s = .ok t) :
    t = { s with graceTick := t.graceTick, timerRunning := t.timerRunning, periodSub := t.periodSub, step := t.step,
                 pendingStep := t.pendingStep, rearm := t.rearm, dirLatch := t.dirLatch } := by
  rcases arm_cases s with ⟨-, e⟩ | ⟨d, n, m, -, -, e⟩ | ⟨d, n, m, -, -, e⟩ <;> rw [e] at h <;> cases h <;> rw [armStep_eq]

/-- The settling of the direction touches the direction and its pin's event alone. -/
theorem settleDir_frame (s : State) :
    settleDir s = { s with dir := (settleDir s).dir, history := (settleDir s).history } := by
  unfold settleDir setDir; (repeat' split) <;> rfl

/-- A tick outside SLEWING_REQUEST leaves the mode alone, and from the gate on it keeps the motor on a boundary. -/
theorem takeTick_outside_request (s : State) (h : s.modeState ≠ .slewingRequest) :
    (takeTick s).modeState = s.modeState ∧ (Switching s → atBoundary s = true → atBoundary (takeTick s) = true) := by
  refine takeTick_induct (P := fun t => t.modeState = s.modeState ∧ t.cfg = s.cfg ∧
    (Switching s → atBoundary s = true → atBoundary t = true)) ?_ ?_ ?_ ?_ ?_ s ⟨rfl, rfl, fun _ h => h⟩
    |> fun x => ⟨x.1, x.2.2⟩
  · intro s g h; exact h
  · intro s g h; exact h
  · intro u hu ho; simp [gateOpen, hu.1, h] at ho
  · rintro w t a u v hw - - hm hu hv rfl
    rw [consumeRearm_eq]
    have hns : ¬Switching s := by
      rw [hw.1, trackingModes_iff] at hm
      unfold Switching
      rcases hm with hm | hm <;> simp [hm]
    rcases autoAdvance_eq_some hu with ⟨-, -, -, rfl⟩ | ⟨-, rfl⟩ <;>
      rcases stdMove_eq_some hv with ⟨-, -, rfl⟩ | ⟨-, -, -, rfl⟩ | ⟨-, -, rfl⟩ | ⟨-, -, -, rfl⟩ | ⟨-, rfl⟩ <;>
      exact ⟨hw.1, hw.2.1, fun x => absurd x hns⟩
  · rintro w t a u v hw - hm hu hv rfl
    rw [consumeRearm_eq]
    have key : ∀ m : Word, (∃ k : Int, m.toInt = w.motorSteps.toInt + k * homeSteps w) → atBoundary w = true →
        ∀ x : State, x.motorSteps = m → x.backlashSteps = w.backlashSteps → x.cfg = w.cfg → atBoundary x = true := by
      rintro m ⟨k, hk⟩ hb x h1 h2 h3
      simp only [atBoundary, mod0, commandedPosition, homeSteps, beq_iff_eq] at hb ⊢
      rw [h1, h2, h3, hk]
      have : w.motorSteps.toInt + k * homeSteps w + w.backlashSteps.toInt =
          w.motorSteps.toInt + w.backlashSteps.toInt + k * homeStepsOf w.cfg := by unfold homeSteps; ring
      rw [this, Int.add_mul_emod_self_right]; exact hb
    rcases autoAdvance_eq_some hu with ⟨-, -, -, rfl⟩ | ⟨-, rfl⟩ <;>
      rcases fastMove_eq_some hv with ⟨-, -, hi, rfl⟩ | ⟨-, -, hi, rfl⟩ | ⟨-, -, rfl⟩ <;>
      refine ⟨hw.1, hw.2.1, fun hs hb => key _ ?_ (hw.2.2 hs hb) _ rfl rfl rfl⟩
    all_goals first
      | (refine ⟨1, ?_⟩; rw [toInt_wordOfInt hi]; simp [homeSteps]; done)
      | (refine ⟨-1, ?_⟩; rw [toInt_wordOfInt hi]; simp [homeSteps]; ring; done)
      | (refine ⟨0, ?_⟩; simp; done)

/-- Outside SLEWING_REQUEST a stable property stays stable together with the mode, the configuration, the parameters, the
driver's readiness, and (past the gate, where `bd` asks for it) the motor on a boundary. -/
theorem Stable.and_mode {P : State → Prop} (hS : Stable P) {m : ModeState} (hm : m ≠ .slewingRequest) (c : DriverConfig)
    (p : Params) (rd : Bool) (bd : Prop) (hbd : bd → m ≠ .tracking) :
    Stable (fun s => P s ∧ s.modeState = m ∧ s.cfg = c ∧ s.params = p ∧ s.driverReady = rd ∧
      (bd → atBoundary s = true)) where
  tick s h := by
    obtain ⟨h1, h2, h3, h4, h5, h6⟩ := h
    have h7 := takeTick_outside_request s (by rw [h2]; exact hm)
    have h8 := takeTick_onlyTickState s
    refine ⟨hS.tick s h1, h7.1.trans h2, ?_, ?_, ?_, fun b => h7.2 ?_ (h6 b)⟩
    · rw [h8]; exact h3
    · rw [h8]; exact h4
    · rw [h8]; exact h5
    · have := hbd b
      unfold Switching; rw [h2]; revert hm this; cases m <;> simp
  preempt s l h := ⟨hS.preempt s l h.1, h.2⟩
  driver s a b c d he h := ⟨hS.driver s a b c d he h.1, h.2⟩

/-- The updates under which a property must be closed for every step to keep it: `st` for the ticks and driver writes
that may come in between, the plain register writes, what each command writes under the conditions it has checked, and
the transitions of the mode machine, numbered as in 42_mode_fsm.md R175 (transition 3 is part of a tick). -/
structure Kept (P : State → Prop) : Prop where
  st : Stable P
  respond : ∀ s op r v, P s → P (Machine.respond s op r v)
  begin_ : ∀ s, P s → P (beginMainLoop s)
  fault : ∀ s f, P s → P (addFault s f)
  status : ∀ s a b c, P s → P { s with status := a, lastDrvStatus := b, lastSpiStatus := c }
  enabled : ∀ s e, P s → P { s with enabled := e }
  hint : ∀ s e, P s → P { s with slewHint := e }
  origin : ∀ s e, P s → P { s with originSteps := e }
  index : ∀ s e, P s → P { s with indexSteps := e }
  target : ∀ s e b, P s → P { s with targetSteps := e, synchronized := b }
  sched : ∀ s e, P s → P { s with schedule := e }
  reset : ∀ s v, P s → trackingModes s.modeState = true →
    P { s with motorSteps := v, targetSteps := v, backlashSteps := 0#32, indexSteps := 0#32, originSteps := v
               savedBacklash := if s.backlashDisabled then 0#32 else s.savedBacklash }
  bldis : ∀ s m g, P s → trackingModes s.modeState = true → s.backlashDisabled = false →
    P { s with motorSteps := m, targetSteps := g, savedBacklash := s.backlashSteps, backlashSteps := 0#32
               backlashDisabled := true }
  blen : ∀ s m g, P s → trackingModes s.modeState = true → s.backlashDisabled = true →
    P { s with motorSteps := m, targetSteps := g, backlashSteps := wordOfInt (restoredBacklash s), savedBacklash := 0#32
               backlashDisabled := false }
  blamt : ∀ s a, P s → 0 ≤ a.toInt → ¬(s.backlashDisabled = false ∧ a.toInt < s.backlashSteps.toInt) →
    P { s with backlashAmountSteps := a }
  freq : ∀ s f u, P s → arm { s with freqBits := acceptedFreq f } = .ok u → P u
  param : ∀ s c, P s → s.modeState = .tracking → validateConfig s.params c = .ok → P { s with cfg := c }
  notReady : ∀ s, P s → s.modeState = .tracking → P { s with driverReady := false }
  init : ∀ s sh, P s → s.modeState = .tracking → validateConfig s.params s.cfg = .ok →
    P (preemptPoint (driverSetup { s with shadows := sh })) →
    P { preemptPoint (driverSetup { s with shadows := sh }) with driverReady := true }
  tr1 : ∀ s, P s → s.modeState = .tracking → switchable s = true → P { s with modeState := .slewingRequest }
  tr2 : ∀ s, P s → s.modeState = .slewingRequest → P { s with modeState := .tracking }
  tr4 : ∀ s, P s → s.modeState = .slewingPause → P { s with modeState := .tracking, modeReq := false }
  tr5 : ∀ s t, P s → s.modeState = .slewingPause → atBoundary s = true →
    arm { settleDir s with handler := .fast } = .ok t → P { t with modeReq := false, modeState := .slewingReady }
  tr6 : ∀ s, P s → s.modeState = .slewingReady → P { s with modeState := .slewing }
  tr7 : ∀ s t, P s → s.modeState = .slewing → atBoundary s = true → arm { s with handler := .standard } = .ok t →
    P { t with modeState := .trackingReady }
  tr8 : ∀ s, P s → s.modeState = .trackingReady → P { s with modeState := .tracking }

namespace Kept
variable {P : State → Prop} (k : Kept P)
include k

theorem of_answer {s op a} (h : P s) (hd : ∀ t v, a = .done t v → P t) (hf : ∀ t r, a = .failed t r → P t) :
    P (answerCommand s op a) := by
  cases a with
  | done t v => exact k.respond _ _ _ _ (hd t v rfl)
  | raise r => exact k.respond _ _ _ _ h
  | failed t r => exact k.respond _ _ _ _ (hf t r rfl)
  | modelFault f => exact k.respond _ _ _ _ (k.fault _ _ h)

/-- A host command whose body keeps the property. -/
theorem of_host {s t op body} (h : P s) (e : hostCommand s op body = .next t)
    (hd : ∀ s u v, P s → body s = .done u v → P u) (hf : ∀ s u r, P s → body s = .failed u r → P u) : P t := by
  cases e
  exact k.of_answer (k.begin_ _ h) (fun _ _ => hd _ _ _ (k.begin_ _ h)) (fun _ _ => hf _ _ _ (k.begin_ _ h))

theorem host_of_not_failed {s t op body} (h : P s) (e : hostCommand s op body = .next t)
    (hd : ∀ s u v, P s → body s = .done u v → P u) (hf : ∀ s u r, body s ≠ .failed u r) : P t :=
  k.of_host h e hd (fun s u r _ he => absurd he (hf s u r))

omit k in
theorem of_storeChecked {kk : Word → State} {v u w} (h : ∀ w, P (kk w)) (e : storeChecked v kk = .done u w) : P u := by
  unfold storeChecked at e; split at e
  · cases e; exact h _
  · cases e

omit k in
theorem of_valueChecked {s : State} {v u w} (h : P s) (e : valueChecked s v = .done u w) : P u := by
  unfold valueChecked at e; split at e
  · cases e; exact h
  · cases e

theorem tick {s} (h : P s) : P (takeTick s) := k.st.tick _ h

theorem status_read {s} (h : P s) : P (orFault s (updateStatus s)) := by
  rcases updateStatus_cases k.st h with e | ⟨u, a, b, c, hu, e⟩ <;> rw [e]
  · exact k.fault _ _ h
  · exact k.status _ _ _ _ hu

omit k in
theorem storeChecked_ne_failed {v kk u r} : storeChecked v kk ≠ .failed u r := by
  unfold storeChecked; split <;> simp

omit k in
theorem valueChecked_ne_failed {s v u r} : valueChecked s v ≠ .failed u r := by
  unfold valueChecked; split <;> simp

/-- The mode poll, whatever ticks come in between. -/
theorem of_modePoll {s} (h : P s) : P (modePoll s) := by
  unfold modePoll
  split
  · rename_i hm
    unfold pollTracking; split
    · rename_i hh
      have h1 := (k.st.and_mode (m := .tracking) (by decide) s.cfg s.params s.driverReady False (by simp)).preemptPoint
           ⟨h, hm, rfl, rfl, rfl, by simp⟩
      refine k.tr1 _ h1.1 h1.2.1 ?_
      have : switchable s = true := (Bool.and_eq_true_iff.1 hh).2
      rw [switchable_iff] at this ⊢
      rw [h1.2.2.1, h1.2.2.2.1, h1.2.2.2.2.1]; exact this
    · exact h
  · unfold pollSlewingRequest
    split
    · exact h
    · split
      · exact k.tr2 _ (k.st.preemptPoint h) ‹_›
      · exact k.st.preemptPoint h
  · rename_i hm
    unfold pollSlewingPause
    have h1 := (k.st.and_mode (m := .slewingPause) (by decide) s.cfg s.params s.driverReady False (by simp)).preemptPoint
           ⟨h, hm, rfl, rfl, rfl, by simp⟩
    split
    · unfold switchToSlewing
      split
      · exact k.fault _ _ h1.1
      · split
        · exact k.fault _ _ h1.1
        · rename_i hb _
          have hS := (k.st.and_mode (m := .slewingPause) (by decide) s.cfg s.params s.driverReady True (by simp))
          have h2 := hS.preemptPoint (hS.setDecay .slew (hS.setMicrostep .slew
            ⟨h1.1, h1.2.1, h1.2.2.1, h1.2.2.2.1, h1.2.2.2.2.1, fun _ => by simpa using hb⟩))
          unfold enterSlewReady
          split
          · exact k.tr5 _ _ h2.1 h2.2.1 (h2.2.2.2.2.2 trivial) ‹_›
          · exact k.fault _ _ h2.1
    · exact k.tr4 _ h1.1 h1.2.1
  · rename_i hm
    have h1 := (k.st.and_mode (m := .slewingReady) (by decide) s.cfg s.params s.driverReady False (by simp)).preemptPoint
           ⟨h, hm, rfl, rfl, rfl, by simp⟩
    exact k.tr6 _ h1.1 h1.2.1
  · rename_i hm
    unfold pollSlewing
    split
    · exact h
    · have h1 := (k.st.and_mode (m := .slewing) (by decide) s.cfg s.params s.driverReady False (by simp)).preemptPoint
           ⟨h, hm, rfl, rfl, rfl, by simp⟩
      unfold swapToStandard
      split
      · exact k.fault _ _ h1.1
      · split
        · exact k.fault _ _ h1.1
        · rename_i hb _
          have hS := (k.st.and_mode (m := .slewing) (by decide) s.cfg s.params s.driverReady True (by simp))
          have h2 := hS.preemptPoint ⟨h1.1, h1.2.1, h1.2.2.1, h1.2.2.2.1, h1.2.2.2.2.1, fun _ => by simpa using hb⟩
          unfold enterTrackingReady
          split
          · exact k.tr7 _ _ h2.1 h2.2.1 (h2.2.2.2.2.2 trivial) ‹_›
          · exact k.fault _ _ h2.1
  · rename_i hm
    unfold pollTrackingReady switchToTracking
    have hS := (k.st.and_mode (m := .trackingReady) (by decide) s.cfg s.params s.driverReady False (by simp))
    have h1 := hS.preemptPoint ⟨h, hm, rfl, rfl, rfl, by simp⟩
    split
    · exact k.fault _ _ h1.1
    · split
      · exact k.fault _ _ h1.1
      · have h2 := hS.preemptPoint (hS.setDecay .track (hS.setMicrostep .track h1))
        exact k.tr8 _ h2.1 h2.2.1

/-- Every instruction. -/
theorem of_exec {i s t} (h : P s) (e : Machine.exec i s = .next t) : P t := by
  cases i with
  | resetPos v =>
    simp only [Machine.exec] at e; unfold execResetPos at e
    refine k.host_of_not_failed h e (fun s u w h e => ?_) (fun s u r => ?_)
    · split at e
      · cases e
      · cases e; exact k.reset _ _ h (by simp_all)
    · split <;> simp
  | setInstr v =>
    simp only [Machine.exec] at e; unfold execSetInstr at e
    exact k.host_of_not_failed h e (fun s u w h e => of_storeChecked (fun _ => k.index _ _ h) e)
      (fun _ _ _ => storeChecked_ne_failed)
  | setInstrPark v m =>
    simp only [Machine.exec] at e; unfold execSetInstrPark at e
    refine k.host_of_not_failed h e (fun s u w h e => ?_) (fun s u r => ?_)
    · split at e
      · cases e
      · exact of_storeChecked (fun _ => k.index _ _ h) e
    · split
      · simp
      · exact storeChecked_ne_failed
  | setTarget v =>
    simp only [Machine.exec] at e; unfold execSetTarget at e
    exact k.host_of_not_failed h e (fun s u w h e => of_storeChecked (fun w => k.target s w s.synchronized h) e)
      (fun _ _ _ => storeChecked_ne_failed)
  | setTargetPark v m =>
    simp only [Machine.exec] at e; unfold execSetTargetPark at e
    refine k.host_of_not_failed h e (fun s u w h e => ?_) (fun s u r => ?_)
    · split at e
      · cases e
      · exact of_storeChecked (fun w => k.target s w s.synchronized h) e
    · split
      · simp
      · exact storeChecked_ne_failed
  | setSync on =>
    simp only [Machine.exec] at e; unfold execSetSync at e
    refine k.host_of_not_failed h e (fun s u w h e => ?_) (fun s u r => by simp)
    cases e; exact k.target _ _ _ h
  | blDisable =>
    simp only [Machine.exec] at e; unfold execBlDisable at e
    refine k.host_of_not_failed h e (fun s u w h e => ?_) (fun s u r => ?_)
    · split at e
      · cases e
      · split at e
        · cases e
        · split at e
          · cases e; exact k.bldis _ _ _ h (by simp_all) (by simp_all)
          · cases e
    · split
      · simp
      · split
        · simp
        · split <;> simp
  | blEnable =>
    simp only [Machine.exec] at e; unfold execBlEnable at e
    refine k.host_of_not_failed h e (fun s u w h e => ?_) (fun s u r => ?_)
    · split at e
      · cases e
      · split at e
        · cases e
        · split at e
          · cases e; exact k.blen _ _ _ h (by simp_all) (by simp_all)
          · cases e
    · split
      · simp
      · split
        · simp
        · split <;> simp
  | setBlAmount a =>
    simp only [Machine.exec] at e; unfold execSetBlAmount at e
    refine k.host_of_not_failed h e (fun s u w h e => ?_) (fun s u r => ?_)
    · split at e
      · cases e
      · split at e
        · cases e
        · split at e
          · cases e
          · cases e; exact k.blamt _ _ h (by omega) ‹_›
    · split
      · simp
      · split
        · simp
        · split <;> simp
  | markOrigin =>
    simp only [Machine.exec] at e; unfold execMarkOrigin at e
    refine k.host_of_not_failed h e (fun s u w h e => ?_) (fun s u r => by simp)
    cases e; exact k.origin _ _ h
  | getMotor =>
    simp only [Machine.exec] at e; unfold execGetMotor at e
    exact k.host_of_not_failed h e (fun s u w h e => by cases e; exact h) (fun s u r => by simp)
  | getInstr =>
    simp only [Machine.exec] at e; unfold execGetInstr at e
    exact k.host_of_not_failed h e (fun s u w h e => of_valueChecked h e) (fun _ _ _ => valueChecked_ne_failed)
  | getTarget =>
    simp only [Machine.exec] at e; unfold execGetTarget at e
    exact k.host_of_not_failed h e (fun s u w h e => of_valueChecked h e) (fun _ _ _ => valueChecked_ne_failed)
  | getBl =>
    simp only [Machine.exec] at e; unfold execGetBl at e
    exact k.host_of_not_failed h e (fun s u w h e => by cases e; exact h) (fun s u r => by simp)
  | getTDist =>
    simp only [Machine.exec] at e; unfold execGetTDist at e
    exact k.host_of_not_failed h e (fun s u w h e => of_valueChecked h e) (fun _ _ _ => valueChecked_ne_failed)
  | getOtDist =>
    simp only [Machine.exec] at e; unfold execGetOtDist at e
    exact k.host_of_not_failed h e (fun s u w h e => of_valueChecked h e) (fun _ _ _ => valueChecked_ne_failed)
  | getRampDir =>
    simp only [Machine.exec] at e; unfold execGetRampDir at e
    exact k.host_of_not_failed h e (fun s u w h e => by cases e; exact h) (fun s u r => by simp)
  | setFreq f =>
    simp only [Machine.exec] at e; unfold execSetFreq at e
    refine k.host_of_not_failed h e (fun s u w h e => ?_) (fun s u r => ?_)
    · split at e
      · cases e; exact k.freq _ _ _ h ‹_›
      · cases e
    · split <;> simp
  | getFreq =>
    simp only [Machine.exec] at e; unfold execGetFreq at e
    exact k.host_of_not_failed h e (fun s u w h e => by cases e; exact h) (fun s u r => by simp)
  | setEnable on =>
    simp only [Machine.exec] at e; unfold execSetEnable at e
    refine k.host_of_not_failed h e (fun s u w h e => ?_) (fun s u r => ?_)
    · split at e
      · cases e
      · split at e
        · cases e; exact k.enabled _ _ (k.st.preemptPoint (k.st.setPin _ _ h))
        · cases e; exact k.st.setPin _ _ (k.st.preemptPoint (k.enabled _ _ h))
    · split
      · simp
      · split <;> simp
  | setSlew on =>
    simp only [Machine.exec] at e; unfold execSetSlew at e
    refine k.host_of_not_failed h e (fun s u w h e => ?_) (fun s u r => by simp)
    cases e; exact k.hint _ _ h
  | getMode =>
    simp only [Machine.exec] at e; unfold execGetMode at e
    exact k.host_of_not_failed h e (fun s u w h e => by cases e; exact h) (fun s u r => by simp)
  | getSlewRatio =>
    simp only [Machine.exec] at e; unfold execGetSlewRatio at e
    exact k.host_of_not_failed h e (fun s u w h e => by cases e; exact h) (fun s u r => by simp)
  | drvInit =>
    simp only [Machine.exec] at e; unfold execDrvInit at e
    refine k.of_host h e (fun s u w h e => ?_) (fun s u r h e => ?_)
    · split at e
      · cases e
      · split at e
        · cases e
        · cases e
        · split at e
          · cases e
          · cases e
            refine k.st.setPin _ _ (k.init _ _ h (by simp_all) (by simp_all) ?_)
            exact k.st.preemptPoint (k.st.driverSetup (k.st.shadows _ h))
    · split at e
      · cases e
      · split at e
        · cases e; exact k.notReady _ h (by simp_all)
        · cases e
        · split at e <;> cases e
  | valParam p v =>
    simp only [Machine.exec] at e; unfold execValParam at e
    refine k.host_of_not_failed h e (fun s u w h e => ?_) (fun s u r => ?_)
    · split at e
      · cases e
      · split at e <;> cases e
        exact h
    · split
      · simp
      · split <;> simp
  | setParam p v =>
    simp only [Machine.exec] at e; unfold execSetParam at e
    refine k.host_of_not_failed h e (fun s u w h e => ?_) (fun s u r => ?_)
    · split at e
      · cases e
      · split at e
        · cases e
        · split at e <;> cases e
          exact k.param _ _ h (by simp_all) ‹_›
    · split
      · simp
      · split
        · simp
        · split <;> simp
  | getParam p =>
    simp only [Machine.exec] at e; unfold execGetParam at e
    refine k.host_of_not_failed h e (fun s u w h e => ?_) (fun s u r => ?_)
    · split at e <;> cases e
      exact h
    · split <;> simp
  | getStatus =>
    simp only [Machine.exec] at e; unfold execGetStatus at e
    exact k.host_of_not_failed h e (fun s u w h e => by cases e; exact h) (fun s u r => by simp)
  | calibrate =>
    simp only [Machine.exec] at e; unfold execCalibrate at e
    exact k.host_of_not_failed h e (fun s u w h e => by cases e) (fun s u r => by simp)
  | drvMsTrack =>
    simp only [Machine.exec] at e; unfold execDrvMsTrack at e
    cases e; split
    · exact k.fault _ _ h
    · exact k.st.setMicrostep _ h
  | drvMsSlew =>
    simp only [Machine.exec] at e; unfold execDrvMsSlew at e
    cases e; split
    · exact k.fault _ _ h
    · exact k.st.setMicrostep _ h
  | drvDecayTrack =>
    simp only [Machine.exec] at e; unfold execDrvDecayTrack at e
    cases e; split
    · exact k.fault _ _ h
    · exact k.st.setDecay _ h
  | drvDecaySlew =>
    simp only [Machine.exec] at e; unfold execDrvDecaySlew at e
    cases e; split
    · exact k.fault _ _ h
    · exact k.st.setDecay _ h
  | drvUpdateStatus =>
    simp only [Machine.exec] at e; unfold execDrvUpdateStatus at e
    cases e; exact k.status_read h
  | drvPower on =>
    simp only [Machine.exec] at e; unfold execDrvPower at e
    cases e; exact k.st.setPin _ _ h
  | evTickStd =>
    simp only [Machine.exec] at e; unfold execEvTickStd at e
    cases e; split
    · exact k.tick h
    · exact h
  | evTickFast =>
    simp only [Machine.exec] at e; unfold execEvTickFast at e
    cases e; split
    · exact k.tick h
    · exact h
  | evModePoll =>
    simp only [Machine.exec] at e; unfold execEvModePoll at e
    cases e; exact k.of_modePoll (k.begin_ _ h)
  | evStatusPoll =>
    simp only [Machine.exec] at e; unfold execEvStatusPoll at e
    cases e; split
    · exact k.status_read (k.begin_ _ h)
    · exact k.begin_ _ h

/-- Every move of the schedule. -/
theorem of_slot {sl s t} (h : P s) (e : runSlot sl s = .next t) : P t := by
  cases sl with
  | host w =>
    simp only [runSlot, runHostWord, illegalCommand] at e
    split at e
    · exact k.of_exec h e
    · exact k.host_of_not_failed h e (fun s u w h e => by cases e) (fun s u r => by simp)
  | raised w =>
    simp only [runSlot, runRaisedWord] at e
    split at e
    · exact k.of_exec h e
    · cases e
  | tick => exact k.of_exec h e

/-- Every step. -/
theorem of_step {s t} (h : P s) (e : Machine.step s = .next t) : P t := by
  unfold Machine.step at e
  split at e
  · cases e; exact h
  · exact k.of_slot (k.sched _ _ h) e
end Kept

end Sys2Proof.Laws
end

