-- ==== Sys2Proof/Laws/Bus.lean ====
section
/-! SUPPORT. What the transactor's and the driver's shared operations leave, whatever ticks come in between: a preemption
point, a register write with its shadow, a pin, and the two settling operations of the mode switch. -/

namespace Sys2Proof.Laws

open Sys2Proof Sys2Proof.Machine Sys2Proof.Safety

/-! ### What goes over the link -/

@[simp] theorem spiSent_append (h l : List Event) : spiSent (h ++ l) = spiSent h ++ l.filterMap spiFrameOf := by
  unfold spiSent
  rw [List.filterMap_append]

@[simp] theorem uartSent_append (h l : List Event) : uartSent (h ++ l) = uartSent h ++ l.filterMap uartBytesOf := by
  unfold uartSent
  rw [List.filterMap_append]

@[simp] theorem spiFrames_of_stepEvents (s : State) (d : Dir) : (stepEvents s d).filterMap spiFrameOf = [] := by
  unfold stepEvents
  split <;> rfl

@[simp] theorem uartBytes_of_stepEvents (s : State) (d : Dir) : (stepEvents s d).filterMap uartBytesOf = [] := by
  unfold stepEvents
  split <;> rfl

@[simp] theorem spiFrames_of_pulse (d : Dir) : [Event.pulse d].filterMap spiFrameOf = [] := rfl

@[simp] theorem uartBytes_of_pulse (d : Dir) : [Event.pulse d].filterMap uartBytesOf = [] := rfl

/-- `t` has the driver's registers, pins, parameters and configuration of `s`, and nothing was sent in between. -/
structure DriverSame (s t : State) : Prop where
  shadows : t.shadows = s.shadows
  pins : t.pins = s.pins
  params : t.params = s.params
  cfg : t.cfg = s.cfg
  driverReady : t.driverReady = s.driverReady
  enabled : t.enabled = s.enabled
  spi : spiSent t.history = spiSent s.history
  uart : uartSent t.history = uartSent s.history

theorem DriverSame.refl (s : State) : DriverSame s s := ⟨rfl, rfl, rfl, rfl, rfl, rfl, rfl, rfl⟩

theorem DriverSame.trans {a b c : State} (h : DriverSame a b) (g : DriverSame b c) : DriverSame a c :=
  ⟨g.shadows.trans h.shadows, g.pins.trans h.pins, g.params.trans h.params, g.cfg.trans h.cfg,
    g.driverReady.trans h.driverReady, g.enabled.trans h.enabled, g.spi.trans h.spi, g.uart.trans h.uart⟩

@[simp] theorem driverPins_append (h l : List Event) : driverPins (h ++ l) = driverPins h ++ l.filterMap driverPinOf := by
  unfold driverPins
  rw [List.filterMap_append]

@[simp] theorem driverPins_of_stepEvents (s : State) (d : Dir) : (stepEvents s d).filterMap driverPinOf = [] := by
  unfold stepEvents
  split <;> rfl

@[simp] theorem driverPins_of_pulse (d : Dir) : [Event.pulse d].filterMap driverPinOf = [] := rfl

/-- A tick drives no pin but DIR. -/
theorem takeTick_driverPins (s : State) : driverPins (takeTick s).history = driverPins s.history := by
  refine takeTick_induct (P := fun t => driverPins t.history = driverPins s.history)
    (fun _ _ h => h) (fun _ _ h => h) (fun _ h _ _ => h) ?_ ?_ s rfl
  · rintro s t a u v h - - - hu hv rfl
    rw [consumeRearm_eq]
    rcases autoAdvance_eq_some hu with ⟨-, -, -, rfl⟩ | ⟨-, rfl⟩ <;>
      rcases stdMove_eq_some hv with ⟨-, -, rfl⟩ | ⟨-, -, -, rfl⟩ | ⟨-, -, rfl⟩ | ⟨-, -, -, rfl⟩ | ⟨-, rfl⟩ <;>
      simpa using h
  · rintro s t a u v h - - hu hv rfl
    rw [consumeRearm_eq]
    rcases autoAdvance_eq_some hu with ⟨-, -, -, rfl⟩ | ⟨-, rfl⟩ <;>
      rcases fastMove_eq_some hv with ⟨-, -, -, rfl⟩ | ⟨-, -, -, rfl⟩ | ⟨-, -, rfl⟩ <;>
      simpa using h

/-- A preemption point drives no pin but DIR. -/
theorem preemptPoint_driverPins (s : State) : driverPins (preemptPoint s).history = driverPins s.history :=
  preemptPoint_induct (P := fun t => driverPins t.history = driverPins s.history)
    (fun _ h => (takeTick_driverPins _).trans h) (fun _ _ h => h) s rfl

/-- A register write drives no pin. -/
theorem regWrite_driverPins (s : State) (r : TmcReg) (v : Word) :
    driverPins (regWrite s r v).history = driverPins s.history := by
  unfold regWrite
  split
  · rfl
  · show driverPins (sendRegister (pause s) r v).history = _
    unfold sendRegister pause
    split <;> simp [spiTxn, uartWriteTxn, emit, driverPinOf, preemptPoint_driverPins]

/-- The level of a driver pin is a field of `pins`. -/
theorem pinLevel_congr {s t : State} (h : t.pins = s.pins) {p : Pin} (hp : p ≠ .dir) : pinLevel t p = pinLevel s p := by
  cases p <;> first | exact absurd rfl hp | simp [pinLevel, h]

/-- A tick sends nothing. -/
theorem takeTick_sends_nothing (s : State) :
    spiSent (takeTick s).history = spiSent s.history ∧ uartSent (takeTick s).history = uartSent s.history := by
  refine takeTick_induct (P := fun t => spiSent t.history = spiSent s.history ∧ uartSent t.history = uartSent s.history)
    (fun _ _ h => h) (fun _ _ h => h) (fun _ h _ _ => h) ?_ ?_ s ⟨rfl, rfl⟩
  · rintro s t a u v h - - - hu hv rfl
    rw [consumeRearm_eq]
    rcases autoAdvance_eq_some hu with ⟨-, -, -, rfl⟩ | ⟨-, rfl⟩ <;>
      rcases stdMove_eq_some hv with ⟨-, -, rfl⟩ | ⟨-, -, -, rfl⟩ | ⟨-, -, rfl⟩ | ⟨-, -, -, rfl⟩ | ⟨-, rfl⟩ <;>
      simpa using h
  · rintro s t a u v h - - hu hv rfl
    rw [consumeRearm_eq]
    rcases autoAdvance_eq_some hu with ⟨-, -, -, rfl⟩ | ⟨-, rfl⟩ <;>
      rcases fastMove_eq_some hv with ⟨-, -, -, rfl⟩ | ⟨-, -, -, rfl⟩ | ⟨-, -, rfl⟩ <;>
      simpa using h

theorem takeTick_driverSame (s : State) : DriverSame s (takeTick s) := by
  have h8 := takeTick_onlyTickState s
  have hn := takeTick_sends_nothing s
  refine ⟨?_, ?_, ?_, ?_, ?_, ?_, hn.1, hn.2⟩ <;> rw [h8]

/-- A preemption point leaves the driver alone. -/
theorem preemptPoint_driverSame (s : State) : DriverSame s (preemptPoint s) :=
  preemptPoint_induct (P := DriverSame s) (fun _ h => h.trans (takeTick_driverSame _))
    (fun _ _ h => ⟨h.1, h.2, h.3, h.4, h.5, h.6, h.7, h.8⟩) s (DriverSame.refl s)

/-! ### The register write -/

/-- Setting a shadow to what it validly holds changes nothing. -/
theorem setShadow_of_holds {t : Shadows} {r : TmcReg} {v : Word} (h : (shadowOf t r).valid = true)
    (hv : (shadowOf t r).value = v) : setShadow t r v = t := by
  cases r
  case drvStatus => rfl
  all_goals
    simp only [shadowOf] at h hv
    simp only [setShadow]
    subst hv
    rw [← h]

/-- `t` is `s` after a write of `v` to register `r`, and ticks: the shadow, and the frame that was sent, if any. -/
structure Written (s t : State) (r : TmcReg) (v : Word) : Prop where
  shadows : t.shadows = setShadow s.shadows r v
  pins : t.pins = s.pins
  params : t.params = s.params
  cfg : t.cfg = s.cfg
  driverReady : t.driverReady = s.driverReady
  enabled : t.enabled = s.enabled
  onSpi : s.params.model.cls = .tmcSpi →
    spiSent t.history = spiSent s.history ++ spiSends s r v ∧ uartSent t.history = uartSent s.history
  onUart : s.params.model.cls = .tmcUart →
    uartSent t.history = uartSent s.history ++ uartSends s r v ∧ spiSent t.history = spiSent s.history

/-- Everything a register write does (45_bus.md R262). -/
theorem regWrite_written (s : State) (r : TmcReg) (v : Word) : Written s (regWrite s r v) r v := by
  unfold regWrite
  by_cases h : writeSuppressed s r v = true
  · rw [if_pos h]
    have hh : (shadowOf s.shadows r).valid = true ∧ (shadowOf s.shadows r).value = v := by
      unfold writeSuppressed at h
      simpa using h
    refine ⟨(setShadow_of_holds hh.1 hh.2).symm, rfl, rfl, rfl, rfl, rfl, ?_, ?_⟩ <;> intro _ <;>
      simp [spiSends, uartSends, h]
  · rw [if_neg h]
    have p := preemptPoint_driverSame s
    have hs : DriverSame s { sendRegister (pause s) r v with history := (preemptPoint s).history } := by
      unfold sendRegister pause
      split <;> exact ⟨p.1, p.2, p.3, p.4, p.5, p.6, p.7, p.8⟩
    refine ⟨?_, hs.pins, hs.params, hs.cfg, hs.driverReady, hs.enabled, fun hc => ?_, fun hc => ?_⟩
    · show setShadow (sendRegister (pause s) r v).shadows r v = _
      rw [show (sendRegister (pause s) r v).shadows = s.shadows from hs.shadows]
    · show spiSent (sendRegister (pause s) r v).history = _ ∧ uartSent (sendRegister (pause s) r v).history = _
      unfold sendRegister pause
      rw [p.params, hc]
      simp [spiTxn, emit, p.spi, p.uart, spiFrameOf, uartBytesOf, spiSends, h]
    · show uartSent (sendRegister (pause s) r v).history = _ ∧ spiSent (sendRegister (pause s) r v).history = _
      unfold sendRegister pause
      rw [p.params, hc]
      simp [uartWriteTxn, emit, p.spi, p.uart, spiFrameOf, uartBytesOf, uartSends, h]

/-- What a write would send depends on the parameters and the register's own shadow alone. -/
theorem sends_congr {s t : State} {r : TmcReg} (v : Word) (hp : t.params = s.params)
    (hs : shadowOf t.shadows r = shadowOf s.shadows r) :
    spiSends t r v = spiSends s r v ∧ uartSends t r v = uartSends s r v := by
  unfold spiSends uartSends writeSuppressed
  rw [hp, hs]
  exact ⟨rfl, rfl⟩

/-- A write of what the shadow validly holds does nothing at all (45_bus.md R262). -/
theorem regWrite_of_sent {s : State} {r : TmcReg} {v : Word} (h : shadowOf s.shadows r = Safety.sent v) :
    regWrite s r v = s := by
  unfold regWrite
  rw [if_pos]
  unfold writeSuppressed
  rw [h]
  simp [Safety.sent]

/-! ### Pins -/

/-- Everything setting a pin does, but for the event it may emit (43_driver.md R210). -/
theorem setPin_effect (s : State) (p : Pin) (l : Level) :
    DriverSame { s with pins := (storePin s p l).pins } (setPin s p l) := by
  unfold setPin
  split
  · rename_i h
    refine ⟨rfl, ?_, rfl, rfl, rfl, rfl, rfl, rfl⟩
    cases p <;> simp only [storePin, pinLevel] at *
    · simp only [Option.some.injEq] at h
      rw [← h]
    all_goals rw [← h]
  · rw [storePin_eq]
    refine ⟨rfl, rfl, rfl, rfl, rfl, rfl, ?_, ?_⟩ <;> simp [emit, spiFrameOf, uartBytesOf]

/-- A pin that stands at the level stays as it is. -/
theorem setPin_of_level {s : State} {p : Pin} {l : Level} (h : pinLevel s p = some l) : setPin s p l = s := by
  unfold setPin
  rw [if_pos h]

theorem drivePin_of_level {s : State} {p : Pin} {l : Level} (h : pinLevel s p = some l) : drivePin s p l = s := by
  unfold drivePin
  rw [if_pos h]

/-- A stored level is all that storing the same pin needs of a state. -/
theorem storePin_pins_congr {s t : State} (h : t.pins = s.pins) (p : Pin) (l : Level) :
    (storePin t p l).pins = (storePin s p l).pins := by
  cases p <;> simp [storePin, h]

/-- The PIN event of a driver pin whose level changes, and no event where it stands. -/
theorem setPin_driverPins (s : State) {p : Pin} (hp : p ≠ .dir) (l : Level) :
    driverPins (setPin s p l).history = driverPins s.history ++ pinSends s p l := by
  unfold setPin pinSends
  split
  · simp
  · rw [storePin_eq]
    cases p <;> first | exact absurd rfl hp | simp [emit, driverPinOf]

/-- Driving a pin with ticks before its event: the pin holds the level, one event tells a change, and the rest of the
driver stands (43_driver.md R210, log 26). -/
theorem drivePin_effect (s : State) {p : Pin} (hp : p ≠ .dir) (l : Level) :
    DriverSame { s with pins := (storePin s p l).pins } (drivePin s p l) ∧
      driverPins (drivePin s p l).history = driverPins s.history ++ pinSends s p l := by
  by_cases h : pinLevel s p = some l
  · rw [drivePin_of_level h]
    have e := setPin_effect s p l
    rw [setPin_of_level h] at e
    exact ⟨e, by simp [pinSends, h]⟩
  · have d := preemptPoint_driverSame s
    have e := setPin_effect (preemptPoint s) p l
    have v : pinSends (preemptPoint s) p l = pinSends s p l := by
      unfold pinSends
      rw [pinLevel_congr d.pins hp]
    unfold drivePin
    rw [if_neg h, setPin_driverPins _ hp, preemptPoint_driverPins, v]
    refine ⟨⟨e.shadows.trans d.shadows, e.pins.trans (storePin_pins_congr d.pins p l), e.params.trans d.params,
      e.cfg.trans d.cfg, e.driverReady.trans d.driverReady, e.enabled.trans d.enabled, e.spi.trans d.spi,
      e.uart.trans d.uart⟩, rfl⟩

/-! ### Parameters in their domain raise no model fault -/

theorem codeOk_of_paramsOk {p : Params} (h : ParamsOk p) (m : Int) : codeOk p m = true := by
  unfold codeOk
  split
  · have hc := h.codes m
    unfold subdivisionsToCode
    split
    · decide
    · rename_i hm _
      rw [hm]
      simp [hc.1, hc.2]
  all_goals rfl

theorem regWriteBad_of_paramsOk {s : State} (h : ParamsOk s.params) (r : TmcReg) (v : Word) :
    regWriteBad s r v = false := by
  have ha : regAddrOk s.params r = true := decide_eq_true (h.regAddr r)
  unfold regWriteBad
  simp [ha]

theorem setMicrostepBad_of_paramsOk {s : State} (h : ParamsOk s.params) (x : Phase) : setMicrostepBad s x = false := by
  have h1 : rsenseOk s.params.rsense = true := by simp [rsenseOk, h.rsenseNum, h.rsenseDen]
  have h2 : iholdDelayOk s.params.iholdDelay = true := by simp [iholdDelayOk, h.iholdLow, h.iholdHigh]
  unfold setMicrostepBad
  split <;> simp [codeOk_of_paramsOk h, h1, h2, regWriteBad_of_paramsOk h]

theorem setDecayBad_of_paramsOk {s : State} (h : ParamsOk s.params) (x : Phase) : setDecayBad s x = false := by
  unfold setDecayBad
  split <;> simp [regWriteBad_of_paramsOk h]

theorem driverSetupBad_of_paramsOk {s : State} (h : ParamsOk s.params) : driverSetupBad s = false := by
  unfold driverSetupBad
  split <;>
    simp [setMicrostepBad_of_paramsOk h, setDecayBad_of_paramsOk h, regWriteBad_of_paramsOk h]

theorem timerParamsOk_of_paramsOk {p : Params} (h : ParamsOk p) : timerParamsOk p = true := by
  simp [timerParamsOk, h.kSub, h.periodMin]

/-! ### Without ticks in between -/

theorem setPin_onlyDriver {s t : State} {p : Pin} {l : Level} (h : OnlyDriver s t) : OnlyDriver s (setPin t p l) := by
  unfold setPin
  split
  · exact h
  · rw [storePin_eq]
    unfold OnlyDriver emit at *
    rw [h]

theorem drivePin_onlyDriver {s t : State} {p : Pin} {l : Level} (hp : s.preempt = []) (h : OnlyDriver s t) :
    OnlyDriver s (drivePin t p l) := by
  have hp' : t.preempt = [] := by rw [h]; exact hp
  unfold drivePin
  rw [preemptPoint_of_nil hp']
  split
  · exact h
  · exact setPin_onlyDriver h

theorem regWrite_onlyDriver {s t : State} {r : TmcReg} {v : Word} (hp : s.preempt = []) (h : OnlyDriver s t) :
    OnlyDriver s (regWrite t r v) := by
  have hp' : t.preempt = [] := by rw [h]; exact hp
  unfold regWrite
  split
  · exact h
  · unfold pause
    rw [preemptPoint_of_nil hp']
    unfold sendRegister
    split <;> (unfold OnlyDriver at *; simp only [spiTxn, uartWriteTxn, emit]; rw [h])

theorem setMicrostep_onlyDriver {s t : State} {x : Phase} (hp : s.preempt = []) (h : OnlyDriver s t) :
    OnlyDriver s (setMicrostep t x) := by
  unfold setMicrostep
  split
  · split
    · exact drivePin_onlyDriver hp (drivePin_onlyDriver hp (drivePin_onlyDriver hp h))
    · exact h
  · exact regWrite_onlyDriver hp (regWrite_onlyDriver hp h)
  · exact regWrite_onlyDriver hp (regWrite_onlyDriver hp h)

theorem setDecay_onlyDriver {s t : State} {x : Phase} (hp : s.preempt = []) (h : OnlyDriver s t) :
    OnlyDriver s (setDecay t x) := by
  unfold setDecay
  split
  · split
    · exact drivePin_onlyDriver hp h
    · exact h
  · exact regWrite_onlyDriver hp h
  · exact regWrite_onlyDriver hp h

end Sys2Proof.Laws
end

