-- ==== Sys2Proof/Laws/Encoding.lean ====
section
/-! SUPPORT. The fields of an assembled command word, and the word of a byte list. -/

namespace Sys2Proof.Laws

open Sys2Proof

theorem append_toNat {m n : Nat} (x : BitVec m) (y : BitVec n) :
    (x ++ y).toNat = x.toNat * 2 ^ n + y.toNat := by
  rw [BitVec.toNat_append, Nat.shiftLeft_eq, Nat.mul_comm, ← Nat.two_pow_add_eq_or_of_lt y.isLt]

theorem mkCommand_toNat (op x : Byte) (b : BitVec 16) (a : Word) :
    (mkCommand op x b a).toNat = ((op.toNat * 256 + x.toNat) * 65536 + b.toNat) * 4294967296 + a.toNat := by
  show (op ++ x ++ b ++ a : BitVec (8 + 8 + 16 + 32)).toNat = _
  rw [append_toNat, append_toNat, append_toNat]
  norm_num

theorem extract_toNat {n : Nat} (w : BitVec n) (start len : Nat) :
    (w.extractLsb' start len).toNat = w.toNat / 2 ^ start % 2 ^ len := by
  rw [BitVec.extractLsb'_toNat, Nat.shiftRight_eq_div_pow]

@[simp] theorem fieldOp_mkCommand (op x : Byte) (b : BitVec 16) (a : Word) :
    fieldOp (mkCommand op x b a) = op := by
  apply BitVec.eq_of_toNat_eq
  rw [fieldOp, extract_toNat, mkCommand_toNat]
  omega

@[simp] theorem fieldX_mkCommand (op x : Byte) (b : BitVec 16) (a : Word) :
    fieldX (mkCommand op x b a) = x := by
  apply BitVec.eq_of_toNat_eq
  rw [fieldX, extract_toNat, mkCommand_toNat]
  omega

@[simp] theorem fieldB_mkCommand (op x : Byte) (b : BitVec 16) (a : Word) :
    fieldB (mkCommand op x b a) = b := by
  apply BitVec.eq_of_toNat_eq
  rw [fieldB, extract_toNat, mkCommand_toNat]
  omega

@[simp] theorem fieldA_mkCommand (op x : Byte) (b : BitVec 16) (a : Word) :
    fieldA (mkCommand op x b a) = a := by
  apply BitVec.eq_of_toNat_eq
  rw [fieldA, extract_toNat, mkCommand_toNat]
  omega

/-- A word is assembled from its own fields. -/
theorem mkCommand_fields (w : Command) : mkCommand (fieldOp w) (fieldX w) (fieldB w) (fieldA w) = w := by
  apply BitVec.eq_of_toNat_eq
  rw [mkCommand_toNat]
  simp only [fieldOp, fieldX, fieldB, fieldA, extract_toNat]
  have := w.isLt
  omega

/-! ### What each operand form accepts -/

theorem formNone_ok {w : Command} {i j : Instr} (h : formNone w i = .ok j) :
    j = i ∧ fieldX w = 0 ∧ fieldB w = 0 ∧ fieldA w = 0 := by
  unfold formNone at h
  split at h <;> cases h
  exact ⟨rfl, ‹_›⟩

theorem formA_ok {w : Command} {k : Word → Instr} {j : Instr} (h : formA w k = .ok j) :
    j = k (fieldA w) ∧ fieldX w = 0 ∧ fieldB w = 0 := by
  unfold formA at h
  split at h <;> cases h
  exact ⟨rfl, ‹_›⟩

theorem formAB_ok {w : Command} {k : Word → BitVec 16 → Instr} {j : Instr} (h : formAB w k = .ok j) :
    j = k (fieldA w) (fieldB w) ∧ fieldX w = 0 := by
  unfold formAB at h
  split at h <;> cases h
  exact ⟨rfl, ‹_›⟩

theorem formBool_ok {w : Command} {k : Bool → Instr} {j : Instr} (h : formBool w k = .ok j) :
    ∃ on, j = k on ∧ fieldX w = boolField on ∧ fieldB w = 0 ∧ fieldA w = 0 := by
  unfold formBool at h
  split at h
  · split at h
    · cases h; exact ⟨false, rfl, ‹_›, ‹_›⟩
    · split at h <;> cases h
      exact ⟨true, rfl, ‹_›, ‹_›⟩
  · cases h

/-- A parameter id below 7 survives the cut to three bits. -/
theorem pid_of_lt {x : Byte} (h : x < 7) : (x.setWidth 3).setWidth 8 = x ∧ pidOk (x.setWidth 3) = true := by
  have hx : x.toNat < 7 := h
  constructor
  · apply BitVec.eq_of_toNat_eq
    simp
    omega
  · unfold pidOk
    simp only [bne_iff_ne, ne_eq]
    intro e
    have := congrArg BitVec.toNat e
    simp at this
    omega

theorem formPid_ok {w : Command} {k : BitVec 3 → Instr} {j : Instr} (h : formPid w k = .ok j) :
    ∃ p, pidOk p = true ∧ j = k p ∧ fieldX w = p.setWidth 8 ∧ fieldB w = 0 ∧ fieldA w = 0 := by
  unfold formPid at h
  split at h
  · split at h <;> cases h
    have hp := pid_of_lt ‹fieldX w < 7›
    exact ⟨_, hp.2, rfl, hp.1.symm, ‹_›⟩
  · cases h

theorem formPidA_ok {w : Command} {k : BitVec 3 → Word → Instr} {j : Instr} (h : formPidA w k = .ok j) :
    ∃ p, pidOk p = true ∧ j = k p (fieldA w) ∧ fieldX w = p.setWidth 8 ∧ fieldB w = 0 := by
  unfold formPidA at h
  split at h
  · split at h <;> cases h
    have hp := pid_of_lt ‹fieldX w < 7›
    exact ⟨_, hp.2, rfl, hp.1.symm, ‹_›⟩
  · cases h

/-- A serialised word reads back as itself (20_memory.md R62). -/
theorem commandOfBytes_bytesOfCommand (w : Command) : commandOfBytes (bytesOfCommand w) = some w := by
  unfold commandOfBytes bytesOfCommand
  simp only [Option.some.injEq]
  apply BitVec.eq_of_toNat_eq
  show (w.extractLsb' 56 8 ++ w.extractLsb' 48 8 ++ w.extractLsb' 40 8 ++ w.extractLsb' 32 8 ++ w.extractLsb' 24 8 ++
    w.extractLsb' 16 8 ++ w.extractLsb' 8 8 ++ w.extractLsb' 0 8 : BitVec (8 + 8 + 8 + 8 + 8 + 8 + 8 + 8)).toNat = _
  simp only [append_toNat, extract_toNat]
  have := w.isLt
  omega

/-- The byte decoder on a serialised word is the word decoder. -/
theorem decodeBytes_bytesOfCommand (w : Command) : decodeBytes (bytesOfCommand w) = decodeTable w := by
  simp [decodeBytes, commandOfBytes_bytesOfCommand]

/-- The table decoder reads the word itself. -/
theorem decodeTableWord_eq (n w : Nat) :
    decodeTableWord n w = (decodeTable (BitVec.ofNat 64 (w % 2 ^ n))).toOption := by
  simp [decodeTableWord, decodeBytes_bytesOfCommand]

@[simp] theorem setWidth_pid (p : BitVec 3) : (p.setWidth 8).setWidth 3 = p := by
  apply BitVec.eq_of_toNat_eq
  have := p.isLt
  simp

theorem pidField_lt {p : BitVec 3} (h : pidOk p = true) : p.setWidth 8 < 7#8 := by
  revert h
  revert p
  decide

end Sys2Proof.Laws
end

