-- ==== Sys2Proof/Laws/PerInstr.lean ====
section
/-! SUPPORT. Facts about each instruction as syntax: the opcode field of its word is the one its row names
(30_encoding.md R84, R85). -/

namespace Sys2Proof.Laws.EncodeOpcode

open Sys2Proof

/-- The `OP` field of an instruction's word is its opcode. -/
def Statement (i : Instr) : Prop := fieldOp (encode i) = opcode i

theorem resetPos (v : Word) : Statement (.resetPos v) := fieldOp_mkCommand _ _ _ _

theorem setInstr (v : Word) : Statement (.setInstr v) := fieldOp_mkCommand _ _ _ _

theorem setInstrPark (v : Word) (m : BitVec 16) : Statement (.setInstrPark v m) := fieldOp_mkCommand _ _ _ _

theorem setTarget (v : Word) : Statement (.setTarget v) := fieldOp_mkCommand _ _ _ _

theorem setTargetPark (v : Word) (m : BitVec 16) : Statement (.setTargetPark v m) := fieldOp_mkCommand _ _ _ _

theorem setSync (on : Bool) : Statement (.setSync on) := fieldOp_mkCommand _ _ _ _

theorem blDisable : Statement .blDisable := fieldOp_mkCommand _ _ _ _

theorem blEnable : Statement .blEnable := fieldOp_mkCommand _ _ _ _

theorem setBlAmount (a : Word) : Statement (.setBlAmount a) := fieldOp_mkCommand _ _ _ _

theorem markOrigin : Statement .markOrigin := fieldOp_mkCommand _ _ _ _

theorem getMotor : Statement .getMotor := fieldOp_mkCommand _ _ _ _

theorem getInstr : Statement .getInstr := fieldOp_mkCommand _ _ _ _

theorem getTarget : Statement .getTarget := fieldOp_mkCommand _ _ _ _

theorem getBl : Statement .getBl := fieldOp_mkCommand _ _ _ _

theorem getTDist : Statement .getTDist := fieldOp_mkCommand _ _ _ _

theorem getOtDist : Statement .getOtDist := fieldOp_mkCommand _ _ _ _

theorem getRampDir : Statement .getRampDir := fieldOp_mkCommand _ _ _ _

theorem setFreq (fbits : Word) : Statement (.setFreq fbits) := fieldOp_mkCommand _ _ _ _

theorem getFreq : Statement .getFreq := fieldOp_mkCommand _ _ _ _

theorem setEnable (on : Bool) : Statement (.setEnable on) := fieldOp_mkCommand _ _ _ _

theorem setSlew (on : Bool) : Statement (.setSlew on) := fieldOp_mkCommand _ _ _ _

theorem getMode : Statement .getMode := fieldOp_mkCommand _ _ _ _

theorem getSlewRatio : Statement .getSlewRatio := fieldOp_mkCommand _ _ _ _

theorem drvInit : Statement .drvInit := fieldOp_mkCommand _ _ _ _

theorem valParam (p : BitVec 3) (v : Word) : Statement (.valParam p v) := fieldOp_mkCommand _ _ _ _

theorem setParam (p : BitVec 3) (v : Word) : Statement (.setParam p v) := fieldOp_mkCommand _ _ _ _

theorem getParam (p : BitVec 3) : Statement (.getParam p) := fieldOp_mkCommand _ _ _ _

theorem getStatus : Statement .getStatus := fieldOp_mkCommand _ _ _ _

theorem calibrate : Statement .calibrate := fieldOp_mkCommand _ _ _ _

theorem drvMsTrack : Statement .drvMsTrack := fieldOp_mkCommand _ _ _ _

theorem drvMsSlew : Statement .drvMsSlew := fieldOp_mkCommand _ _ _ _

theorem drvDecayTrack : Statement .drvDecayTrack := fieldOp_mkCommand _ _ _ _

theorem drvDecaySlew : Statement .drvDecaySlew := fieldOp_mkCommand _ _ _ _

theorem drvUpdateStatus : Statement .drvUpdateStatus := fieldOp_mkCommand _ _ _ _

theorem drvPower (on : Bool) : Statement (.drvPower on) := fieldOp_mkCommand _ _ _ _

theorem evTickStd : Statement .evTickStd := fieldOp_mkCommand _ _ _ _

theorem evTickFast : Statement .evTickFast := fieldOp_mkCommand _ _ _ _

theorem evModePoll : Statement .evModePoll := fieldOp_mkCommand _ _ _ _

theorem evStatusPoll : Statement .evStatusPoll := fieldOp_mkCommand _ _ _ _

end Sys2Proof.Laws.EncodeOpcode
end

