-- ==== Sys2Proof/Laws/Sense.lean ====
section
/-! SUPPORT. Why a rational `RSENSE` loses nothing of "real > 0" (00_scope.md R6, log 12): for every real resistance there is
a positive rational one that gives the same rounding in 43_driver.md R197 for every current a word can hold. -/

namespace Sys2Proof.Laws

/-- What 43_driver.md R197 rounds, for a current of `halfMa / 2` mA and a resistance of `rho` ohms. -/
noncomputable def senseScale (rho : ℝ) (halfMa : ℕ) : ℝ := ((halfMa : ℝ) / 2 / 1000) / ((325 / 1000) / rho) * 32

theorem senseScale_eq (rho : ℝ) (halfMa : ℕ) : senseScale rho halfMa = (halfMa : ℝ) * (16 / 325) * rho := by
  unfold senseScale
  rw [div_div_eq_mul_div]
  ring

/-- One current: a resistance a little above `rho` rounds as `rho` does. -/
theorem round_senseScale_right (rho : ℝ) (halfMa : ℕ) :
    ∃ d : ℝ, 0 < d ∧ ∀ x, rho ≤ x → x < rho + d → round (senseScale x halfMa) = round (senseScale rho halfMa) := by
  have hc : (0 : ℝ) ≤ (halfMa : ℝ) * (16 / 325) := by positivity
  have hgap : 0 < round (senseScale rho halfMa) + 1 - (senseScale rho halfMa + 1 / 2) := by
    have := Int.lt_floor_add_one (senseScale rho halfMa + 1 / 2)
    rw [round_eq]
    linarith
  refine ⟨_, div_pos hgap (add_pos_of_nonneg_of_pos hc one_pos), fun x hx hlt => ?_⟩
  have hd := sub_lt_iff_lt_add'.mpr hlt
  rw [lt_div_iff₀ (add_pos_of_nonneg_of_pos hc one_pos)] at hd
  have hlow : (round (senseScale rho halfMa) : ℝ) ≤ senseScale rho halfMa + 1 / 2 := by
    rw [round_eq]
    exact Int.floor_le _
  have hmono := mul_le_mul_of_nonneg_left hx hc
  rw [round_eq (senseScale x halfMa), Int.floor_eq_iff]
  rw [senseScale_eq] at *
  rw [senseScale_eq] at *
  constructor <;> nlinarith

/-- All currents up to a bound. -/
theorem round_senseScale_right_upto (rho : ℝ) (bound : ℕ) :
    ∃ d : ℝ, 0 < d ∧ ∀ x, rho ≤ x → x < rho + d →
      ∀ halfMa < bound, round (senseScale x halfMa) = round (senseScale rho halfMa) := by
  induction bound with
  | zero => exact ⟨1, one_pos, fun _ _ _ _ h => absurd h (Nat.not_lt_zero _)⟩
  | succ n ih =>
    obtain ⟨d, hd, h⟩ := ih
    obtain ⟨e, he, g⟩ := round_senseScale_right rho n
    refine ⟨min d e, lt_min hd he, fun x hx hlt k hk => ?_⟩
    rcases Nat.lt_succ_iff_lt_or_eq.mp hk with hk | rfl
    · exact h x hx (hlt.trans_le (by gcongr; exact min_le_left _ _)) k hk
    · exact g x hx (hlt.trans_le (by gcongr; exact min_le_right _ _))

/-- Every real resistance has a positive rational one that cannot be told from it by any current up to the bound. -/
theorem rational_sense_suffices (rho : ℝ) (hrho : 0 < rho) (bound : ℕ) :
    ∃ q : ℚ, 0 < q ∧ ∀ halfMa < bound, round (senseScale (q : ℝ) halfMa) = round (senseScale rho halfMa) := by
  obtain ⟨d, hd, h⟩ := round_senseScale_right_upto rho bound
  obtain ⟨q, hlow, hhigh⟩ := exists_rat_btwn (lt_add_of_pos_right rho hd)
  exact ⟨q, by exact_mod_cast hrho.trans hlow, h q hlow.le hhigh⟩

end Sys2Proof.Laws
end

