-- ==== Sys2Proof/Machine/Asm.lean ====
section
/-! DEFINITION. The program notation of 30_encoding.md R89 and the pseudo-instructions of R90: one line of text becomes
the moves of the schedule that it stands for. Text is a list of characters (log 24). -/

namespace Sys2Proof.Machine

open Sys2Proof

/-- The pseudo-instructions (30_encoding.md R90). TICK, POLL and SPOLL mark where the schedule runs T, P and S. -/
inductive Pseudo where
  | stop
  | zeroPos
  | tick (n : Nat)
  | poll
  | spoll
deriving DecidableEq, Repr

/-- The expansion of a pseudo-instruction (30_encoding.md R90). -/
def expandPseudo : Pseudo → List Slot
  | .stop => [slotOfInstr (.setFreq 0#32)]
  | .zeroPos => [slotOfInstr (.resetPos 0#32)]
  | .tick n => List.replicate n .tick
  | .poll => [slotOfInstr .evModePoll]
  | .spoll => [slotOfInstr .evStatusPoll]

/-- The value of a decimal digit. -/
def decDigit (c : Char) : Option Nat := if '0' ≤ c ∧ c ≤ '9' then some (c.toNat - 48) else none

/-- The value of a hexadecimal digit. -/
def hexDigit (c : Char) : Option Nat :=
  if '0' ≤ c ∧ c ≤ '9' then some (c.toNat - 48)
  else if 'A' ≤ c ∧ c ≤ 'F' then some (c.toNat - 55)
  else if 'a' ≤ c ∧ c ≤ 'f' then some (c.toNat - 87)
  else none

/-- The number that digits in a base denote, continuing from `acc`. -/
def digits (base : Nat) (digit : Char → Option Nat) : Nat → List Char → Option Nat
  | acc, [] => some acc
  | acc, c :: cs =>
    match digit c with
    | some v => digits base digit (acc * base + v) cs
    | none => none

/-- A nonempty decimal or `0x` hexadecimal natural number. -/
def parseNat (cs : List Char) : Option Nat :=
  match cs with
  | [] => none
  | '0' :: 'x' :: c :: rest => digits 16 hexDigit 0 (c :: rest)
  | c :: rest => digits 10 decDigit 0 (c :: rest)

/-- An optionally negative integer (30_encoding.md R89). -/
def parseInt (cs : List Char) : Option Int :=
  match cs with
  | '-' :: rest => (parseNat rest).map (fun n => -(n : Int))
  | _ => (parseNat cs).map (fun n => (n : Int))

/-- An `s32` operand: an integer in range, or OFF (30_encoding.md R89). -/
def parseS32 (cs : List Char) : Option Word :=
  if cs = "OFF".toList then some Config.off else (parseInt cs).bind chk

/-- A decay mode's name (30_encoding.md R86, R89). -/
def parseDecayName (cs : List Char) : Option Word :=
  if cs = "MIXED".toList then some Config.decayMixed
  else if cs = "FAST".toList then some Config.decayFast
  else if cs = "SLOW".toList then some Config.decaySlow
  else if cs = "SPREAD_CYCLE".toList then some Config.decaySpreadCycle
  else if cs = "STEALTH_CHOP".toList then some Config.decayStealthChop
  else none

/-- A parameter's name or its id 0..6 (30_encoding.md R86, R89). -/
def parsePid (cs : List Char) : Option (BitVec 3) :=
  if cs = "microsteps".toList then some 0
  else if cs = "microstepsSlewing".toList then some 1
  else if cs = "currentHold".toList then some 2
  else if cs = "currentRun".toList then some 3
  else if cs = "currentGoto".toList then some 4
  else if cs = "decay".toList then some 5
  else if cs = "decaySlewing".toList then some 6
  else (parseNat cs).bind (fun n => if n ≤ 6 then some (BitVec.ofNat 3 n) else none)

/-- The value operand of VALPARAM and SETPARAM: a decay register also takes a decay name (30_encoding.md R89). -/
def parseParamValue (p : BitVec 3) (cs : List Char) : Option Word :=
  if p = 5#3 ∨ p = 6#3 then (parseDecayName cs).or (parseS32 cs) else parseS32 cs

/-- An `X:bool` operand (30_encoding.md R89). -/
def parseBool (cs : List Char) : Option Bool :=
  if cs = "0".toList then some false else if cs = "1".toList then some true else none

/-- The park `modulo` operand: a `u16` (30_encoding.md R80, R89). -/
def parseU16 (cs : List Char) : Option (BitVec 16) :=
  (parseNat cs).bind (fun n => if n < 65536 then some (BitVec.ofNat 16 n) else none)

/-- `n / d` to the nearest integer, a tie to the even one. -/
def divRoundEven (n d : Nat) : Nat :=
  if 2 * (n % d) > d ∨ (2 * (n % d) = d ∧ n / d % 2 = 1) then n / d + 1 else n / d

/-- The exponent `e` with `2 ^ e ≤ n / d < 2 ^ (e + 1)`, for positive `n` and `d`. -/
def ratioExponent (n d : Nat) : Int :=
  let l : Int := (Nat.log2 n : Int) - (Nat.log2 d : Int)
  if 2 ^ (-l).toNat * n < 2 ^ l.toNat * d then l - 1 else l

/-- The binary32 pattern nearest to `n / d`, a tie to even (30_encoding.md R89): subnormal below 2^-126, infinite where
the rounded value needs an exponent above 127. -/
def f32MagnitudeOfRatio (n d : Nat) : Nat :=
  if n = 0 then 0
  else
    let e : Int := max (ratioExponent n d) (-126)
    let u : Int := e - 23
    let q := divRoundEven (n * 2 ^ (-u).toNat) (d * 2 ^ u.toNat)
    min ((e + 126).toNat * 2 ^ 23 + q) 0x7F800000

/-- The binary32 pattern of a signed ratio. -/
def f32OfRatio (neg : Bool) (n d : Nat) : Word :=
  BitVec.ofNat 32 (f32MagnitudeOfRatio n d + if neg then 2 ^ 31 else 0)

/-- An unsigned decimal real, as a ratio (30_encoding.md R89). -/
def parseDecimal (cs : List Char) : Option (Nat × Nat) :=
  match cs.span (fun c => c != '.') with
  | (whole, []) => if whole = [] then none else (digits 10 decDigit 0 whole).map (fun n => (n, 1))
  | (whole, _ :: frac) =>
    if whole = [] ∨ frac = [] then none
    else (digits 10 decDigit 0 (whole ++ frac)).map (fun n => (n, 10 ^ frac.length))

/-- An `f32` operand: a decimal real, or `f32:0xHHHHHHHH` for the pattern itself (30_encoding.md R89). -/
def parseF32 (cs : List Char) : Option Word :=
  match cs with
  | 'f' :: '3' :: '2' :: ':' :: '0' :: 'x' :: hex =>
    if hex.length = 8 then (digits 16 hexDigit 0 hex).map (BitVec.ofNat 32) else none
  | '-' :: rest => (parseDecimal rest).map (fun r => f32OfRatio true r.1 r.2)
  | _ => (parseDecimal cs).map (fun r => f32OfRatio false r.1 r.2)

/-- A line's operands for a form without any. -/
def asmNone (ops : List (List Char)) (i : Instr) : Option Instr := if ops = [] then some i else none

/-- One `s32` operand. -/
def asmS32 (ops : List (List Char)) (k : Word → Instr) : Option Instr :=
  match ops with
  | [a] => (parseS32 a).map k
  | _ => none

/-- A park pair, `value, modulo`. -/
def asmPark (ops : List (List Char)) (k : Word → BitVec 16 → Instr) : Option Instr :=
  match ops with
  | [a, b] => (parseS32 a).bind (fun v => (parseU16 b).map (k v))
  | _ => none

/-- One boolean operand. -/
def asmBool (ops : List (List Char)) (k : Bool → Instr) : Option Instr :=
  match ops with
  | [a] => (parseBool a).map k
  | _ => none

/-- One frequency operand. -/
def asmF32 (ops : List (List Char)) (k : Word → Instr) : Option Instr :=
  match ops with
  | [a] => (parseF32 a).map k
  | _ => none

/-- A parameter id. -/
def asmPid (ops : List (List Char)) (k : BitVec 3 → Instr) : Option Instr :=
  match ops with
  | [p] => (parsePid p).map k
  | _ => none

/-- A parameter id and a value. -/
def asmPidValue (ops : List (List Char)) (k : BitVec 3 → Word → Instr) : Option Instr :=
  match ops with
  | [p, a] => (parsePid p).bind (fun id => (parseParamValue id a).map (k id))
  | _ => none

/-- The host command that a mnemonic and its operands denote (30_encoding.md R84, R89). -/
def asmCommand (mn : List Char) (ops : List (List Char)) : Option Instr :=
  if mn = "RESETPOS".toList then asmS32 ops .resetPos
  else if mn = "SETINSTR".toList then asmS32 ops .setInstr
  else if mn = "SETINSTRPARK".toList then asmPark ops .setInstrPark
  else if mn = "SETTARGET".toList then asmS32 ops .setTarget
  else if mn = "SETTARGETPARK".toList then asmPark ops .setTargetPark
  else if mn = "SETSYNC".toList then asmBool ops .setSync
  else if mn = "BLDISABLE".toList then asmNone ops .blDisable
  else if mn = "BLENABLE".toList then asmNone ops .blEnable
  else if mn = "SETBLAMOUNT".toList then asmS32 ops .setBlAmount
  else if mn = "MARKORIGIN".toList then asmNone ops .markOrigin
  else if mn = "GETMOTOR".toList then asmNone ops .getMotor
  else if mn = "GETINSTR".toList then asmNone ops .getInstr
  else if mn = "GETTARGET".toList then asmNone ops .getTarget
  else if mn = "GETBL".toList then asmNone ops .getBl
  else if mn = "GETTDIST".toList then asmNone ops .getTDist
  else if mn = "GETOTDIST".toList then asmNone ops .getOtDist
  else if mn = "GETRAMPDIR".toList then asmNone ops .getRampDir
  else if mn = "SETFREQ".toList then asmF32 ops .setFreq
  else if mn = "GETFREQ".toList then asmNone ops .getFreq
  else if mn = "SETENABLE".toList then asmBool ops .setEnable
  else if mn = "SETSLEW".toList then asmBool ops .setSlew
  else if mn = "GETMODE".toList then asmNone ops .getMode
  else if mn = "GETSLEWRATIO".toList then asmNone ops .getSlewRatio
  else if mn = "DRVINIT".toList then asmNone ops .drvInit
  else if mn = "VALPARAM".toList then asmPidValue ops .valParam
  else if mn = "SETPARAM".toList then asmPidValue ops .setParam
  else if mn = "GETPARAM".toList then asmPid ops .getParam
  else if mn = "GETSTATUS".toList then asmNone ops .getStatus
  else if mn = "CALIBRATE".toList then asmNone ops .calibrate
  else none

/-- The pseudo-instruction that a mnemonic and its operands denote (30_encoding.md R90). -/
def asmPseudo (mn : List Char) (ops : List (List Char)) : Option Pseudo :=
  if mn = "STOP".toList then (if ops = [] then some .stop else none)
  else if mn = "ZEROPOS".toList then (if ops = [] then some .zeroPos else none)
  else if mn = "TICK".toList then
    match ops with
    | [] => some (.tick 1)
    | [n] => (parseNat n).map .tick
    | _ => none
  else if mn = "POLL".toList then (if ops = [] then some .poll else none)
  else if mn = "SPOLL".toList then (if ops = [] then some .spoll else none)
  else none

/-- Drops the spaces at both ends. -/
def trimSpaces (cs : List Char) : List Char :=
  ((cs.dropWhile (fun c => c == ' ')).reverse.dropWhile (fun c => c == ' ')).reverse

/-- The parts of a text between commas. -/
def splitCommas : List Char → List (List Char)
  | [] => [[]]
  | c :: cs =>
    if c = ',' then [] :: splitCommas cs
    else
      match splitCommas cs with
      | part :: parts => (c :: part) :: parts
      | [] => [[c]]

/-- The operands of a line: none when nothing follows the mnemonic. -/
def lineOperands (rest : List Char) : List (List Char) :=
  if trimSpaces rest = [] then [] else (splitCommas rest).map trimSpaces

/-- One program line, `MNEMONIC [operand {, operand}] [; comment]` (30_encoding.md R89), as moves of the schedule. -/
def assembleLine (line : List Char) : Option (List Slot) :=
  let code := trimSpaces (line.takeWhile (fun c => c != ';'))
  let parts := code.span (fun c => c != ' ')
  if code = [] then some []
  else
    match asmPseudo parts.1 (lineOperands parts.2) with
    | some ps => some (expandPseudo ps)
    | none => (asmCommand parts.1 (lineOperands parts.2)).map (fun i => [slotOfInstr i])

/-- A program: its lines in order. -/
def assemble : List (List Char) → Option (List Slot)
  | [] => some []
  | l :: ls => (assembleLine l).bind (fun a => (assemble ls).map (fun b => a ++ b))

end Sys2Proof.Machine
end

