-- ==== Sys2Proof/Machine/Chip.lean ====
section
/-! DEFINITION. The optional faithful-chip oracle (45_bus.md R266, general knowledge G13): a chip with a register file that
answers on SPI with the register the transaction before addressed, and on UART with a well-formed reply. No rule of the
block uses it; a proof may assume that the oracle's queued replies are its answers. -/

namespace Sys2Proof.Machine

open Sys2Proof

/-- The chip: its registers by address, the status byte it sends, and the address that the transaction before read. -/
structure Chip where
  regs : List (Nat × Word)
  statusByte : Byte
  lastRead : Nat
deriving DecidableEq, Repr

/-- The register at an address; one never written holds 0. -/
def chipRead (c : Chip) (a : Nat) : Word := ((c.regs.find? (fun e => e.1 == a)).map (·.2)).getD 0#32

/-- Stores a register. -/
def chipWrite (c : Chip) (a : Nat) (v : Word) : Chip :=
  { c with regs := (a, v) :: c.regs.filter (fun e => e.1 != a) }

/-- The 7-bit address of an address byte, and its write flag (20_memory.md R63). -/
def frameAddr (a : Byte) : Nat := (a &&& 0x7F#8).toNat

/-- SPI transaction k answers with the status byte and the register that transaction k-1 addressed (45_bus.md R266,
70_reset_and_hazards.md R320). The spec says "the register read by transaction k-1" and leaves open what follows a write: the
register just written is returned (DESIGN CHOICE, log 34). -/
def chipSpi (c : Chip) (out : BitVec 40) : BitVec 40 × Chip :=
  let a := out.extractLsb' 32 8
  let c' := if a.getLsbD 7 then chipWrite c (frameAddr a) (out.extractLsb' 0 32) else c
  (spiFrame c.statusByte (chipRead c c.lastRead), { c' with lastRead := frameAddr a })

/-- The register address byte of a datagram in a layout. -/
def uartRegisterByte : List UartField → List Byte → Option Byte
  | .register :: _, b :: _ => some b
  | .const _ :: xs, _ :: bs => uartRegisterByte xs bs
  | .device :: xs, _ :: bs => uartRegisterByte xs bs
  | .data _ :: xs, _ :: bs => uartRegisterByte xs bs
  | .crc _ :: xs, _ :: bs => uartRegisterByte xs bs
  | _, _ => none

/-- The register address byte of a well-formed datagram of the axis's device: the bytes are those of the layout with their
own register and data. -/
def uartAccepts (p : Params) (layout : List UartField) (out : List Byte) : Option Byte :=
  (uartRegisterByte layout out).bind fun a =>
    if out = uartEncode p.uartFraming.crc (uartDevice p) a (uartData layout out) layout [] then some a else none

/-- A UART datagram: a well-formed read request is answered with the register's value, a well-formed write stores, and
anything else is ignored (30_encoding.md R96, 45_bus.md R266). Bit 7 of the address byte tells a write. -/
def chipUart (p : Params) (c : Chip) (out : List Byte) : Option (List Byte) × Chip :=
  match (uartAccepts p p.uartFraming.requestLayout out).filter (fun a => !a.getLsbD 7) with
  | some a =>
    (some (uartEncode p.uartFraming.crc (uartDevice p) a (chipRead c (frameAddr a)) p.uartFraming.replyLayout []), c)
  | none =>
    match (uartAccepts p p.uartFraming.writeLayout out).filter (fun a => a.getLsbD 7) with
    | some a => (none, chipWrite c (frameAddr a) (uartData p.uartFraming.writeLayout out))
    | none => (none, c)

/-- The replies of a faithful chip to a sequence of SPI frames. -/
def chipSpiReplies : Chip → List (BitVec 40) → List (BitVec 40)
  | _, [] => []
  | c, f :: fs => (chipSpi c f).1 :: chipSpiReplies (chipSpi c f).2 fs

end Sys2Proof.Machine
end

