-- ==== Sys2Proof/Machine/Fields.lean ====
section
/-! DEFINITION. The field layouts of the driver registers (30_encoding.md R99 to R104). The normative positions are those
the codec uses; the others are the spec's informative ones, read by no rule of the block (log 23). -/

namespace Sys2Proof.Machine

open Sys2Proof

/-- The fields of GCONF, IHOLD_IRUN, CHOPCONF, PWMCONF, COOLCONF and DRVSTATUS that the spec names. -/
inductive FieldName where
  | extCurrentRef | stealthEnable | spreadEnable
  | ihold | irun | iholdDelay
  | toff | hstrt | hend | fd3 | disfdcc | rndtf | chm | tbl | vsense | vhighfs | vhighchm | sync | tpfd | mres | intpol
  | dedge | diss2g | diss2vs
  | pwmAmpl | pwmOfs | pwmGrad | pwmFreq | pwmAutoscale | pwmSymmetric | pwmAutograd | freewheel | pwmReg | pwmLim
  | semin | seup | semax | sedn | seimin | sgt | sfilt
  | standstill | openLoadB | openLoadA | shortB | shortA | otPreWarning | otShutdown | stallFlag | csActual
  | fullStepActive | stallMetric
deriving DecidableEq, Repr

/-- One field: bits `hi` down to `lo`. -/
structure Field where
  name : FieldName
  hi : Nat
  lo : Nat
deriving DecidableEq, Repr

/-- The value of a field in a register word. -/
def fieldValue (f : Field) (v : Word) : Nat := (v.toNat >>> f.lo) % 2 ^ (f.hi + 1 - f.lo)

/-- GCONF of the SPI families (30_encoding.md R99) and of the UART family (44_tmc_codec.md R246). -/
def gconfFields : ModelClass → List Field
  | .tmcSpi => [⟨.extCurrentRef, 0, 0⟩, ⟨.stealthEnable, 2, 2⟩]
  | .tmcUart => [⟨.extCurrentRef, 0, 0⟩, ⟨.spreadEnable, 2, 2⟩]
  | .generic => []

/-- IHOLD_IRUN (30_encoding.md R100). -/
def iholdIrunFields : List Field := [⟨.ihold, 4, 0⟩, ⟨.irun, 12, 8⟩, ⟨.iholdDelay, 19, 16⟩]

/-- The fields of CHOPCONF that both SPI families have in one place (30_encoding.md R101). -/
def chopconfCommonFields : List Field :=
  [⟨.toff, 3, 0⟩, ⟨.hstrt, 6, 4⟩, ⟨.hend, 10, 7⟩, ⟨.fd3, 11, 11⟩, ⟨.disfdcc, 12, 12⟩, ⟨.chm, 14, 14⟩, ⟨.tbl, 16, 15⟩,
   ⟨.vsense, 17, 17⟩, ⟨.vhighfs, 18, 18⟩, ⟨.vhighchm, 19, 19⟩, ⟨.mres, 27, 24⟩, ⟨.intpol, 28, 28⟩, ⟨.dedge, 29, 29⟩,
   ⟨.diss2g, 30, 30⟩]

/-- CHOPCONF by family (30_encoding.md R101). Of the UART family the spec places MRES alone (44_tmc_codec.md R246). -/
def chopconfFields : Model → List Field
  | .tmcSpiA => chopconfCommonFields ++ [⟨.rndtf, 13, 13⟩, ⟨.sync, 23, 20⟩]
  | .tmcSpiB => chopconfCommonFields ++ [⟨.tpfd, 23, 20⟩, ⟨.diss2vs, 31, 31⟩]
  | .tmcUart => [⟨.mres, 27, 24⟩]
  | .genericA4988 => []
  | .genericDrv8825 => []
  | .genericTable => []

/-- PWMCONF by family (30_encoding.md R102). -/
def pwmconfFields : Model → List Field
  | .tmcSpiA =>
    [⟨.pwmAmpl, 7, 0⟩, ⟨.pwmGrad, 15, 8⟩, ⟨.pwmFreq, 17, 16⟩, ⟨.pwmAutoscale, 18, 18⟩, ⟨.pwmSymmetric, 19, 19⟩,
     ⟨.freewheel, 21, 20⟩]
  | .tmcSpiB =>
    [⟨.pwmOfs, 7, 0⟩, ⟨.pwmGrad, 15, 8⟩, ⟨.pwmFreq, 17, 16⟩, ⟨.pwmAutoscale, 18, 18⟩, ⟨.pwmAutograd, 19, 19⟩,
     ⟨.freewheel, 21, 20⟩, ⟨.pwmReg, 27, 24⟩, ⟨.pwmLim, 31, 28⟩]
  | .tmcUart =>
    [⟨.pwmOfs, 7, 0⟩, ⟨.pwmGrad, 15, 8⟩, ⟨.pwmFreq, 17, 16⟩, ⟨.pwmAutoscale, 18, 18⟩, ⟨.pwmAutograd, 19, 19⟩,
     ⟨.freewheel, 21, 20⟩, ⟨.pwmReg, 27, 24⟩, ⟨.pwmLim, 31, 28⟩]
  | .genericA4988 => []
  | .genericDrv8825 => []
  | .genericTable => []

/-- COOLCONF (30_encoding.md R104). -/
def coolconfFields : List Field :=
  [⟨.semin, 3, 0⟩, ⟨.seup, 6, 5⟩, ⟨.semax, 11, 8⟩, ⟨.sedn, 14, 13⟩, ⟨.seimin, 15, 15⟩, ⟨.sgt, 22, 16⟩, ⟨.sfilt, 24, 24⟩]

/-- DRVSTATUS of the SPI families (30_encoding.md R103). -/
def drvStatusFields : List Field :=
  [⟨.standstill, 31, 31⟩, ⟨.openLoadB, 30, 30⟩, ⟨.openLoadA, 29, 29⟩, ⟨.shortB, 28, 28⟩, ⟨.shortA, 27, 27⟩,
   ⟨.otPreWarning, 26, 26⟩, ⟨.otShutdown, 25, 25⟩, ⟨.stallFlag, 24, 24⟩, ⟨.csActual, 21, 16⟩, ⟨.fullStepActive, 15, 15⟩,
   ⟨.stallMetric, 9, 0⟩]

end Sys2Proof.Machine
end

