-- ==== Sys2Proof/Tests/Slice0.lean ====
section
/-! SUPPORT. Tests: the smoke test of WellFormed, decoded words written out by hand, one-step tests whose expected results
are the spec's test vectors (95_test_vectors.md; each docstring names its row), and a witness for the hypotheses of every
statement of Certificates/Slice0/Obligations.lean. -/

namespace Sys2Proof.Tests

open Sys2Proof Sys2Proof.Machine Sys2Proof.Safety

/-! ### Well-formedness -/

/-- Parameter id 7 is ill-formed, 6 is not (30_encoding.md R81). -/
theorem test_wf_valParam : (Instr.valParam 7#3 0#32).wf = false ∧ (Instr.valParam 6#3 0#32).wf = true := by decide
theorem test_wf_setParam : (Instr.setParam 7#3 0#32).wf = false ∧ (Instr.setParam 6#3 0#32).wf = true := by decide
theorem test_wf_getParam : (Instr.getParam 7#3).wf = false ∧ (Instr.getParam 6#3).wf = true := by decide

/-! ### Decoding: one word for each row of 30_encoding.md R84 and R85, `OP` bits 63:56, `X` 55:48, `B` 47:32, `A` 31:0 -/

theorem test_decode_resetPos : decodeTable 0x10000000000003E8#64 = .ok (.resetPos 1000#32) := by decide

theorem test_decode_setInstr : decodeTable 0x1100000000001388#64 = .ok (.setInstr 5000#32) := by decide

theorem test_decode_setInstrPark : decodeTable 0x12000010000003E8#64 = .ok (.setInstrPark 1000#32 16#16) := by decide

theorem test_decode_setTarget : decodeTable 0x13000000000004B0#64 = .ok (.setTarget 1200#32) := by decide

theorem test_decode_setTargetPark : decodeTable 0x14000010FFFFFFA0#64 = .ok (.setTargetPark (-96) 16#16) := by decide

theorem test_decode_setSync : decodeTable 0x1501000000000000#64 = .ok (.setSync true) := by decide

theorem test_decode_blDisable : decodeTable 0x1600000000000000#64 = .ok .blDisable := by decide

theorem test_decode_blEnable : decodeTable 0x1700000000000000#64 = .ok .blEnable := by decide

theorem test_decode_setBlAmount : decodeTable 0x1800000000000014#64 = .ok (.setBlAmount 20#32) := by decide

theorem test_decode_markOrigin : decodeTable 0x1900000000000000#64 = .ok .markOrigin := by decide

theorem test_decode_getMotor : decodeTable 0x1A00000000000000#64 = .ok .getMotor := by decide

theorem test_decode_getInstr : decodeTable 0x1B00000000000000#64 = .ok .getInstr := by decide

theorem test_decode_getTarget : decodeTable 0x1C00000000000000#64 = .ok .getTarget := by decide

theorem test_decode_getBl : decodeTable 0x1D00000000000000#64 = .ok .getBl := by decide

theorem test_decode_getTDist : decodeTable 0x1E00000000000000#64 = .ok .getTDist := by decide

theorem test_decode_getOtDist : decodeTable 0x1F00000000000000#64 = .ok .getOtDist := by decide

theorem test_decode_getRampDir : decodeTable 0x2000000000000000#64 = .ok .getRampDir := by decide

theorem test_decode_setFreq : decodeTable 0x3000000042C80000#64 = .ok (.setFreq 0x42C80000#32) := by decide

theorem test_decode_getFreq : decodeTable 0x3100000000000000#64 = .ok .getFreq := by decide

theorem test_decode_setEnable : decodeTable 0x3201000000000000#64 = .ok (.setEnable true) := by decide

theorem test_decode_setSlew : decodeTable 0x4001000000000000#64 = .ok (.setSlew true) := by decide

theorem test_decode_getMode : decodeTable 0x4100000000000000#64 = .ok .getMode := by decide

theorem test_decode_getSlewRatio : decodeTable 0x4200000000000000#64 = .ok .getSlewRatio := by decide

theorem test_decode_drvInit : decodeTable 0x5000000000000000#64 = .ok .drvInit := by decide

theorem test_decode_valParam : decodeTable 0x51030000000009C4#64 = .ok (.valParam 3#3 2500#32) := by decide

theorem test_decode_setParam : decodeTable 0x5206000000000004#64 = .ok (.setParam 6#3 4#32) := by decide

theorem test_decode_getParam : decodeTable 0x5302000000000000#64 = .ok (.getParam 2#3) := by decide

theorem test_decode_getStatus : decodeTable 0x5400000000000000#64 = .ok .getStatus := by decide

theorem test_decode_calibrate : decodeTable 0x5500000000000000#64 = .ok .calibrate := by decide

theorem test_decode_drvMsTrack : decodeTable 0xE000000000000000#64 = .ok .drvMsTrack := by decide

theorem test_decode_drvMsSlew : decodeTable 0xE100000000000000#64 = .ok .drvMsSlew := by decide

theorem test_decode_drvDecayTrack : decodeTable 0xE200000000000000#64 = .ok .drvDecayTrack := by decide

theorem test_decode_drvDecaySlew : decodeTable 0xE300000000000000#64 = .ok .drvDecaySlew := by decide

theorem test_decode_drvUpdateStatus : decodeTable 0xE400000000000000#64 = .ok .drvUpdateStatus := by decide

theorem test_decode_drvPower : decodeTable 0xE501000000000000#64 = .ok (.drvPower true) := by decide

theorem test_decode_evTickStd : decodeTable 0xF000000000000000#64 = .ok .evTickStd := by decide

theorem test_decode_evTickFast : decodeTable 0xF100000000000000#64 = .ok .evTickFast := by decide

theorem test_decode_evModePoll : decodeTable 0xF200000000000000#64 = .ok .evModePoll := by decide

theorem test_decode_evStatusPoll : decodeTable 0xF300000000000000#64 = .ok .evStatusPoll := by decide


/-- Rows E1 to E3: an unlisted opcode, and a reserved field. -/
theorem test_reject_reserved : decodeHost 0#64 = .error .unlistedOpcode ∧
    decodeHost 0x1A00000000000001#64 = .error .reservedField ∧ decodeHost 0x1001000000000000#64 = .error .reservedField ∧
    decodeHost 0x1300000100000000#64 = .error .reservedField := by decide
/-- Rows E4, E5: `X:bool` = 2 and parameter id 7. -/
theorem test_reject_range : decodeHost 0x3202000000000000#64 = .error .boolOutOfRange ∧
    decodeHost 0x5307000000000000#64 = .error .pidOutOfRange := by decide
/-- Rows E6, E7: the block's own opcodes and the neighbours of the listed ones. -/
theorem test_reject_opcode : decodeHost 0xE000000000000000#64 = .error .blockOpcode ∧
    decodeHost 0xF000000000000000#64 = .error .blockOpcode ∧ decodeHost 0x2100000000000000#64 = .error .unlistedOpcode ∧
    decodeHost 0x5600000000000000#64 = .error .unlistedOpcode := by decide
/-- A word that is not eight bytes is no command (30_encoding.md R80). -/
theorem test_reject_length : decodeBytes [0x1A#8, 0#8] = .error .badLength := by decide
/-- The bytes of GETMOTOR, most significant first (20_memory.md R62). -/
theorem test_decode_bytes : decodeBytes [0x1A#8, 0#8, 0#8, 0#8, 0#8, 0#8, 0#8, 0#8] = .ok .getMotor := by decide

/-! ### One step -/

/-- The state that one instruction leaves; its own state where it does not complete. -/
def after (i : Instr) (s : State) : State :=
  match exec i s with
  | .next t => t
  | .fault _ => s
  | .refused _ => s

/-- The last event of the history. -/
def lastEvent (s : State) : Option Event := s.history.getLast?

/-- The events that one instruction adds. -/
def newEvents (i : Instr) (s : State) : List Event := (after i s).history.drop s.history.length

/-- The reset state with motor, target, backlash and backlash amount set. -/
def at4 (m t b a : Word) : State :=
  { State.reset with motorSteps := m, targetSteps := t, backlashSteps := b, backlashAmountSteps := a }

/-- The same, enabled and with the timer running, toward `d` with `step`. -/
def moving (m t b a : Word) (sync : Bool) (step : Word) : State :=
  { at4 m t b a with enabled := true, timerRunning := true, synchronized := sync, step := step, dirLatch := .pos }

/-- The shadows that a DRVINIT with the reference parameters leaves (row V6). -/
def initShadows : Shadows :=
  { gconf := sent 0x00000001#32, iholdIrun := sent 0x00080F07#32, chopconf := sent 0x14000053#32,
    pwmconf := sent 0x00050480#32, coolconf := sent 0x01000000#32 }

/-- The reset state after a successful DRVINIT. -/
def inited : State := { State.reset with driverReady := true, shadows := initShadows }

/-- The same, with microsteps 16 and microstepsSlewing 2: a step ratio of 8. -/
def ratio8 : State := { inited with cfg := { inited.cfg with microstepsSlewing := 2#32 } }

/-- At the gate of the switch to slewing: row M7. -/
def paused : State :=
  { ratio8 with motorSteps := 1000#32, targetSteps := 1400#32, slewHint := true, modeState := .slewingPause,
                modeReq := true }

/-- A slewing axis with a step ratio of 8. -/
def slewing (m t : Word) (d : Dir) (sync : Bool) (step : Word) : State :=
  { ratio8 with motorSteps := m, targetSteps := t, dir := d, synchronized := sync, step := step, enabled := true,
                timerRunning := true, handler := .fast, modeState := .slewing }

/-- The reset state of a block of another model. -/
def ofModel (m : Model) : State :=
  State.resetWith { Config.reference with model := m, cfgInit := { Config.referenceCfgInit with decay := 0#32 } }

/-- The transactions' SPI replies do not matter in a write; these two are queued so that the events can be written out. -/
def withReplies (s : State) (rs : List (BitVec 40)) : State := { s with oracle := { s.oracle with spi := rs } }



/-- Q1. -/
theorem test_resetPos :
    let t := after (.resetPos 1000#32) (at4 7#32 8#32 3#32 9#32)
    (t.motorSteps, t.targetSteps, t.originSteps, t.backlashSteps) = (1000#32, 1000#32, 1000#32, 0#32) := by decide

/-- Q2. -/
theorem test_resetPos_busy :
    lastEvent (after (.resetPos 5#32) { State.reset with modeState := .slewingPause }) =
    some (.resp 0x10#8 .busy 0#32) := by decide

/-- Q3. -/
theorem test_setInstr :
    (after (.setInstr 5000#32) (at4 1000#32 0#32 0#32 0#32)).indexSteps = 4000#32 := by decide

/-- Q27. -/
theorem test_setInstr_overflow : let t := after (.setInstr (-2)) (at4 0x7FFFFFFF#32 0#32 0#32 0#32)
    (t.indexSteps, t.faults.overflow, lastEvent t) = (0#32, true, some (.resp 0x11#8 .fault 0#32)) := by decide

/-- Q5. -/
theorem test_setInstrPark : (after (.setInstrPark 1000#32 16#16) State.reset).indexSteps = 992#32 := by decide

/-- E11: INVALID is decided before the overflow. -/
theorem test_setInstrPark_invalid :
    lastEvent (after (.setInstrPark 0x7FFFFFFF#32 0#16) (at4 (-10) 0#32 0#32 0#32)) =
    some (.resp 0x12#8 .invalid 0#32) := by decide

/-- Line 5 of program P1. -/
theorem test_setTarget : (after (.setTarget 1200#32) State.reset).targetSteps = 1200#32 := by decide

/-- Q6, Q7. -/
theorem test_setTargetPark : (after (.setTargetPark 1000#32 1#16) State.reset).targetSteps = 998#32 ∧
    (after (.setTargetPark (-96) 16#16) State.reset).targetSteps = -160 := by decide

/-- Q8, Q10: a tie goes away from zero. -/
theorem test_setTargetPark_tie : (after (.setTargetPark 2#32 1#16) State.reset).targetSteps = 2#32 ∧
    (after (.setTargetPark 0#32 1#16) State.reset).targetSteps = -2 := by decide

/-- Q12. -/
theorem test_setSync : let t := after (.setSync true) (at4 500#32 900#32 0#32 0#32)
    (t.targetSteps, t.synchronized) = (500#32, true) := by decide

/-- Q13: an axis that is synchronized keeps its target. -/
theorem test_setSync_again :
    (after (.setSync true) { at4 500#32 900#32 0#32 0#32 with synchronized := true }).targetSteps = 900#32 := by decide

/-- Q14. -/
theorem test_blDisable : let t := after .blDisable (at4 1200#32 1200#32 50#32 50#32)
    (t.motorSteps, t.targetSteps, t.backlashSteps, t.savedBacklash, t.backlashDisabled) =
      (1250#32, 1250#32, 0#32, 50#32, true) := by decide

/-- Q21: BUSY comes before UNPAIRED. -/
theorem test_blDisable_busy :
    lastEvent (after .blDisable { State.reset with modeState := .slewing, backlashDisabled := true }) =
    some (.resp 0x16#8 .busy 0#32) := by decide

/-- Q18: the amount was lowered in between. -/
theorem test_blEnable :
    let t := after .blEnable { at4 1250#32 1250#32 0#32 20#32 with backlashDisabled := true, savedBacklash := 50#32 }
    (t.motorSteps, t.targetSteps, t.backlashSteps, t.backlashDisabled) = (1230#32, 1230#32, 20#32, false) := by decide

/-- Q17. -/
theorem test_blEnable_unpaired :
    lastEvent (after .blEnable State.reset) = some (.resp 0x17#8 .unpaired 0#32) := by decide

/-- Q19 and its nearest accepted word. -/
theorem test_setBlAmount :
    lastEvent (after (.setBlAmount 20#32) (at4 0#32 0#32 30#32 50#32)) = some (.resp 0x18#8 .invalid 0#32) ∧
    (after (.setBlAmount 30#32) (at4 0#32 0#32 30#32 50#32)).backlashAmountSteps = 30#32 := by decide

/-- Q20. -/
theorem test_setBlAmount_negative :
    lastEvent (after (.setBlAmount (-1)) State.reset) = some (.resp 0x18#8 .invalid 0#32) := by decide

/-- Q30. -/
theorem test_markOrigin : (after .markOrigin (at4 1000#32 0#32 0#32 0#32)).originSteps = 1000#32 := by decide

/-- Q26. -/
theorem test_getMotor :
    lastEvent (after .getMotor (at4 (-7) 0#32 0#32 0#32)) = some (.resp 0x1A#8 .ok 0xFFFFFFF9#32) := by decide

/-- Q4. -/
theorem test_getInstr : lastEvent (after .getInstr { at4 1000#32 0#32 0#32 0#32 with indexSteps := 4000#32 }) =
    some (.resp 0x1B#8 .ok 5000#32) := by decide

/-- Q29. -/
theorem test_getInstr_overflow :
    lastEvent (after .getInstr { at4 0x7FFFFFFF#32 0#32 0#32 0#32 with indexSteps := 1#32 }) =
    some (.resp 0x1B#8 .fault 0#32) := by decide

/-- 40_position.md R123. -/
theorem test_getTarget : lastEvent (after .getTarget { at4 0#32 1200#32 0#32 0#32 with indexSteps := (-200) }) =
    some (.resp 0x1C#8 .ok 1000#32) := by decide

/-- Line 9 of program P1. -/
theorem test_getBl :
    lastEvent (after .getBl (at4 0#32 0#32 50#32 50#32)) = some (.resp 0x1D#8 .ok 0x32#32) := by decide

/-- Q23. -/
theorem test_getTDist :
    lastEvent (after .getTDist (at4 1030#32 1200#32 0#32 0#32)) = some (.resp 0x1E#8 .ok 0xAA#32) := by decide

/-- Q28. -/
theorem test_getTDist_overflow :
    (after .getTDist (at4 0x80000000#32 0x7FFFFFFF#32 0#32 0#32)).faults.overflow = true := by decide

/-- Q22. -/
theorem test_getOtDist :
    lastEvent (after .getOtDist { at4 1030#32 1200#32 0#32 0#32 with originSteps := 1000#32 }) =
    some (.resp 0x1F#8 .ok 0x1E#32) := by decide

/-- Q24, Q25. -/
theorem test_getRampDir :
    lastEvent (after .getRampDir { at4 0#32 1200#32 0#32 0#32 with originSteps := 1000#32 }) =
      some (.resp 0x20#8 .ok 1#32) ∧
    lastEvent (after .getRampDir { at4 0#32 1000#32 0#32 0#32 with originSteps := 1200#32 }) =
      some (.resp 0x20#8 .ok 0xFFFFFFFF#32) := by decide

/-- F1, A1. -/
theorem test_setFreq : let t := after (.setFreq 0x42C80000#32) State.reset
    (t.periodSub, t.freqBits, t.step, t.pendingStep, t.rearm, t.dirLatch, t.timerRunning) =
      (160000, 0x42C80000#32, 0#32, 1#32, true, .pos, true) := by decide

/-- F5, F6: the slowest pattern that runs, and the next slower one, which stops. -/
theorem test_setFreq_edge : (after (.setFreq 0x3BFC0FC1#32) State.reset).periodSub = 2079999998 ∧
    (after (.setFreq 0x3BFC0FC0#32) State.reset).freqBits = 0#32 := by decide

/-- A11. -/
theorem test_getFreq : lastEvent (after .getFreq State.reset) = some (.resp 0x31#8 .ok 0#32) := by decide

/-- A9 and its nearest accepted state. -/
theorem test_setEnable : lastEvent (after (.setEnable true) State.reset) = some (.resp 0x32#8 .invalid 0#32) ∧
    newEvents (.setEnable true) inited = [.pin .en .low, .resp 0x32#8 .ok 0#32] := by decide

/-- A10. -/
theorem test_setEnable_off :
    newEvents (.setEnable false) { inited with enabled := true, pins := { inited.pins with en := .low } } =
    [.pin .en .high, .resp 0x32#8 .ok 0#32] := by decide

/-- T1. -/
theorem test_evTickStd :
    let s := moving 1000#32 1200#32 0#32 50#32 false 1#32
    ((after .evTickStd s).backlashSteps, newEvents .evTickStd s) = (1#32, [.pin .dir .high, .pulse .fwd]) := by decide

/-- T8: the auto-advance, with the backlash taken up. -/
theorem test_evTickStd_sync : let t := after .evTickStd (moving 5#32 6#32 10#32 10#32 true 1#32)
    (t.targetSteps, t.motorSteps) = (7#32, 6#32) := by decide

/-- T24. -/
theorem test_evTickFast : let s := slewing 1000#32 1000#32 .fwd true 8#32
    ((after .evTickFast s).targetSteps, (after .evTickFast s).motorSteps, newEvents .evTickFast s) =
      (1008#32, 1008#32, [.pulse .fwd]) := by decide

/-- T21: less than one slewing step is left. -/
theorem test_evTickFast_short :
    (after .evTickFast (slewing 1096#32 1100#32 .fwd false 8#32)).motorSteps = 1096#32 := by decide

/-- M14. -/
theorem test_setSlew : let t := after (.setSlew true) State.reset
    (t.slewHint, t.modeState) = (true, .tracking) := by decide

/-- M17. -/
theorem test_getMode :
    lastEvent (after .getMode { ratio8 with modeState := .slewingRequest }) = some (.resp 0x41#8 .ok 2#32) := by decide

/-- M15, M16. -/
theorem test_getSlewRatio :
    lastEvent (after .getSlewRatio ratio8) = some (.resp 0x42#8 .ok 8#32) ∧
    lastEvent (after .getSlewRatio { ratio8 with driverReady := false }) = some (.resp 0x42#8 .ok 1#32) := by decide

/-- M7. -/
theorem test_evModePoll : let s := withReplies paused [0#40]
    ((after .evModePoll s).modeState, (after .evModePoll s).handler, newEvents .evModePoll s) =
      (.slewingReady, .fast, [.txn (.spi 0xEC17000053#40 0#40), .pin .dir .high]) := by decide

/-- M12. -/
theorem test_evModePoll_gating :
    let t := after .evModePoll { ratio8 with motorSteps := 1001#32, slewHint := true, modeState := .slewingPause }
    (t.modeState, t.faults.gating) = (.slewingPause, true) := by decide

/-- V6. -/
theorem test_drvInit : newEvents .drvInit (withReplies State.reset [1#40, 2#40, 3#40, 4#40, 5#40]) =
    [.txn (.spi 0x9000080F07#40 1#40), .txn (.spi 0xEC14000053#40 2#40), .txn (.spi 0xF000050480#40 3#40),
     .txn (.spi 0x8000000001#40 4#40), .txn (.spi 0xED01000000#40 5#40), .resp 0x50#8 .ok 0#32] := by decide

/-- 00_scope.md R10: T steps between the pin events of a generic DRVINIT. -/
theorem test_drvInit_ticks : newEvents .drvInit { ofModel .genericDrv8825 with
      motorSteps := 0#32, targetSteps := 9#32, step := 1#32, dirLatch := .pos, dir := .fwd, enabled := true
      timerRunning := true, preempt := [0, 1, 0, 2, 0] } =
    [.pin .m0 .low, .pulse .fwd, .pin .m1 .low, .pin .m2 .high, .pulse .fwd, .pulse .fwd, .pin .decay .high,
     .pin .en .low, .resp 0x50#8 .ok 0#32] := by decide

/-- 41_sequencer.md R147: a tick event of the handler that is not installed is no step of T. -/
theorem test_isTickOf : let s := { State.reset with timerRunning := true };
    isTickOf s (.raised 0xF100000000000000#64) = false ∧ isTickOf s (.raised 0xF000000000000000#64) = true ∧
    isTickOf s .tick = true ∧ isTickOf State.reset .tick = false := by decide

/-- V7. -/
theorem test_drvInit_invalid :
    newEvents .drvInit { State.reset with cfg := { State.reset.cfg with microsteps := 512#32 } } =
    [.resp 0x50#8 .invalid 0#32] := by decide

/-- V11. -/
theorem test_drvInit_generic : (newEvents .drvInit (ofModel .genericDrv8825)).take 4 =
    [.pin .m0 .low, .pin .m1 .low, .pin .m2 .high, .pin .decay .high] := by decide

/-- V5. -/
theorem test_valParam :
    lastEvent (after (.valParam 3#3 2500#32) State.reset) = some (.resp 0x51#8 .invalid 0#32) ∧
    lastEvent (after (.valParam 3#3 2000#32) State.reset) = some (.resp 0x51#8 .ok 0#32) := by decide

/-- V4: on A4988, a slewing count of 64 has no code, which is checked before the order. -/
theorem test_valParam_order :
    lastEvent (after (.valParam 1#3 64#32) (ofModel .genericA4988)) = some (.resp 0x51#8 .unsupported 0#32) := by decide

/-- Line 1 of program P2. -/
theorem test_setParam : (after (.setParam 1#3 2#32) State.reset).cfg.microstepsSlewing = 2#32 := by decide

/-- E8: ILLEGAL comes before BUSY. -/
theorem test_setParam_busy :
    lastEvent (after (.setParam 7#3 16#32) { ratio8 with modeState := .slewing }) = some (.resp 0x52#8 .illegal 0#32) ∧
    lastEvent (after (.setParam 0#3 16#32) { ratio8 with modeState := .slewing }) = some (.resp 0x52#8 .busy 0#32) := by
  decide

/-- V5. -/
theorem test_getParam :
    lastEvent (after (.getParam 2#3) State.reset) = some (.resp 0x53#8 .ok 0xFFFFFFFF#32) := by decide

/-- V12: standstill. -/
theorem test_getStatus :
    lastEvent (after .getStatus { inited with status := decodeDrvStatusSpi 0x80000000#32 0x08#8 }) =
    some (.resp 0x54#8 .ok 0x81#32) := by decide

/-- V14. -/
theorem test_calibrate : newEvents .calibrate State.reset = [.resp 0x55#8 .refused 0#32] := by decide

/-- V8, V9: a silent call, and a changed run current. -/
theorem test_drvMsTrack :
    newEvents .drvMsTrack inited = [] ∧
    newEvents .drvMsTrack (withReplies { inited with cfg := { inited.cfg with currentRun := 1500#32 } } [0#40]) =
      [.txn (.spi 0x900008170B#40 0#40)] := by decide

/-- Line 12 of program P2. -/
theorem test_drvMsSlew :
    newEvents .drvMsSlew (withReplies { ratio8 with cfg := { ratio8.cfg with currentGoto := 1500#32 } } [0#40, 0#40]) =
    [.txn (.spi 0x9000081707#40 0#40), .txn (.spi 0xEC17000053#40 0#40)] := by decide

/-- V10. -/
theorem test_drvDecayTrack :
    newEvents .drvDecayTrack (withReplies { inited with cfg := { inited.cfg with decay := 4#32 } } [0#40]) =
    [.txn (.spi 0x8000000005#40 0#40)] := by decide

/-- Line 12 of program P2. -/
theorem test_drvDecaySlew :
    newEvents .drvDecaySlew (withReplies { inited with cfg := { inited.cfg with decaySlewing := 4#32 } } [0#40]) =
    [.txn (.spi 0x8000000005#40 0#40)] := by decide

/-- V12, B4: the second reply decides. -/
theorem test_drvUpdateStatus :
    packStatus (after .drvUpdateStatus (withReplies inited [0x0018000000#40, 0x0060000000#40])).status = 0x115#32 := by
  decide

/-- K25: over the UART. -/
theorem test_drvUpdateStatus_uart :
    packStatus (after .drvUpdateStatus { State.resetWith { Config.reference with model := .tmcUart } with
      oracle := { spi := [], uart := [some [0x05#8, 0xFF#8, 0x6F#8, 0#8, 0#8, 0#8, 3#8, 0x88#8]], faultPin := [],
                  served := 0 } }).status = 0x161#32 := by decide +kernel

/-- 43_driver.md R218: EN_ACTIVE_LEVEL is LOW. -/
theorem test_drvPower : newEvents (.drvPower true) State.reset = [.pin .en .low] := by decide

/-- V12: the all-zero reply is the fail-safe. -/
theorem test_evStatusPoll :
    packStatus (after .evStatusPoll (withReplies inited [0#40, 0#40])).status = 0x1FF#32 := by decide

/-- V13. -/
theorem test_evStatusPoll_early : newEvents .evStatusPoll State.reset = [] := by decide


/-! ### Shared functions -/


/-- V1. -/
theorem test_codeTable :
    subdivisionsToCode Config.reference 16 = 4 ∧ subdivisionsToCode Config.reference 3 = -1 ∧
    subdivisionsToCode { Config.reference with model := .genericA4988 } 16 = 7 ∧
    subdivisionsToCode { Config.reference with model := .genericA4988 } 32 = -1 ∧
    subdivisionsToCode { Config.reference with model := .genericDrv8825 } 16 = 4 := by decide

/-- V2, in half milliamperes. -/
theorem test_current :
    [csOfHalfMa { num := 1625, den := 10000 } 0, csOfHalfMa { num := 1625, den := 10000 } 1000,
     csOfHalfMa { num := 1625, den := 10000 } 2000, csOfHalfMa { num := 1625, den := 10000 } 4200,
     csOfHalfMa { num := 75, den := 1000 } 2000, csOfHalfMa { num := 11, den := 100 } 1600] = [0, 7, 15, 31, 6, 8] := by
  decide

/-- K5, K6. -/
theorem test_packIholdIrun :
    packIholdIrun 31#32 31#32 15#32 = 0x000F1F1F#32 ∧ packIholdIrun 7#32 15#32 8#32 = 0x00080F07#32 ∧
    unpackIholdIrun 0x000F1F1F#32 = (31#5, 31#5, 15#4) := by decide

/-- K7 to K9. -/
theorem test_chopconf :
    chopconf 0x10000053#32 4#32 = 0x14000053#32 ∧ chopconf 0xFFFFFFFF#32 0#32 = 0xF0FFFFFF#32 ∧
    chopconf 0x0F000000#32 7#32 = 0x07000000#32 ∧ mresOf 0x14000053#32 = 4#4 := by decide

/-- K10, K11. -/
theorem test_gconf : gconfSpi 4#32 = 5#32 ∧ gconfSpi 3#32 = 1#32 ∧ gconfUart Config.reference 3#32 = 0xC5#32 ∧
    gconfUart Config.reference 4#32 = 0xC1#32 := by decide

/-- K14, K15. -/
theorem test_crc8 :
    crc8 UartFraming.trinamic [5#8, 0#8, 0#8] = 0x48#8 ∧ crc8 UartFraming.trinamic [5#8, 1#8, 0x6F#8] = 0x32#8 ∧
    uartWrite Config.reference .iholdIrun 0x00080F07#32 = [5#8, 0#8, 0x90#8, 0#8, 8#8, 0x0F#8, 7#8, 0x48#8] := by
  decide +kernel

/-- K20 to K23. -/
theorem test_uartParse :
    uartParse Config.reference .drvStatus (some [5#8, 0xFF#8, 0x6F#8, 0x80#8, 0#8, 0#8, 0#8, 0xD0#8]) = some 0x80000000#32 ∧
    uartParse Config.reference .drvStatus (some [5#8, 0xFF#8, 0x6F#8, 0x80#8, 0#8, 0#8, 0#8, 0xD1#8]) = none ∧
    uartParse Config.reference .drvStatus (some [5#8, 0xFF#8, 0#8, 0#8, 0#8, 0#8, 0xC1#8, 4#8]) = none ∧
    uartParse Config.reference .drvStatus none = none := by decide +kernel

/-- The published check values of CRC-8 and CRC-16/CCITT-FALSE over the nine digits (general knowledge). -/
theorem test_crcValue :
    let digits : List Byte := [0x31#8, 0x32#8, 0x33#8, 0x34#8, 0x35#8, 0x36#8, 0x37#8, 0x38#8, 0x39#8];
    crcValue { width := 8, poly := 0x07, init := 0, lsbFirst := false, reflectOut := false, xorOut := 0 } digits = 0xF4 ∧
    crcValue { width := 16, poly := 0x1021, init := 0xFFFF, lsbFirst := false, reflectOut := false, xorOut := 0 } digits = 0x29B1 := by
  decide +kernel

/-- K26, K27. -/
theorem test_drvStatusUart : packStatus (decodeDrvStatusUart UartStatusLayout.tmc22xx 0xC0#32) = 0x115#32 ∧
    packStatus (decodeDrvStatusUart UartStatusLayout.tmc22xx 0#32) = 1#32 := by decide

/-- B7: the echo of a single wire is dropped. -/
theorem test_echo :
    dropEcho true [5#8, 0#8, 0x6F#8, 0x84#8] [5#8, 0#8, 0x6F#8, 0x84#8, 1#8, 2#8] = [1#8, 2#8] := by decide

/-- 30_encoding.md R89, R90. -/
theorem test_assemble :
    assembleLine "SETPARAM decaySlewing, STEALTH_CHOP ; M6".toList = some [.host 0x5206000000000004#64] ∧
    assembleLine "TICK 2".toList = some [.tick, .tick] := by
  refine ⟨rfl, rfl⟩

/-! ### Witnesses: states and operands that meet the hypotheses of the statements, clause by clause -/

/-- The reference parameters with another model lie in their domain. -/
theorem paramsOk_ofModel (m : Model) : ParamsOk { Config.reference with model := m } where
  kSub := by cases m <;> decide
  periodMin := by cases m <;> decide
  rsenseNum := by cases m <;> decide
  rsenseDen := by cases m <;> decide
  iholdLow := by cases m <;> decide
  iholdHigh := by cases m <;> decide
  regAddr := by intro r; cases m <;> cases r <;> decide
  codes := by
    intro n
    show -1 ≤ codeTableEntry Config.reference.genericCodeTable n ∧
      codeTableEntry Config.reference.genericCodeTable n ≤ 7
    unfold codeTableEntry
    split_ifs <;> decide

/-- The reference parameters with the model of another class, as the parameters of an initialised driver. -/
def readyOf (m : Model) : State := { ofModel m with driverReady := true }

theorem witness_DecodeEncodeRoundTrip :
    ((Instr.getParam 6#3).wf = true ∧ (Instr.getParam 6#3).isHostCommand = true) ∧
      (Instr.drvPower true).wf = true ∧ (Instr.drvPower true).isHostCommand = false := by decide

theorem witness_AcceptedHostWordIsItsEncoding : decodeHost 0x5306000000000000#64 = .ok (.getParam 6#3) := by decide

theorem witness_OtherHostWordsAnswerIllegal :
    (∀ i : Instr, i.wf = true → i.isHostCommand = true → encode i ≠ 0x2100000000000000#64) ∧
      0xE0 ≤ (fieldOp 0xE000000000000000#64).toNat := by
  refine ⟨fun i _ _ h => ?_, by decide⟩
  have e : fieldOp (encode i) = 0x21#8 := by rw [h]; decide
  revert e
  cases i <;> simp only [encode, Laws.fieldOp_mkCommand] <;> simp [opcode]

theorem witness_StepRunsDecodedInstruction :
    decodeTable 0xE501000000000000#64 = .ok (.drvPower true) ∧ decodeHost 0x1A00000000000000#64 = .ok .getMotor ∧
      decodeRaised 0xF300000000000000#64 = .ok .evStatusPoll ∧
      decodeHost 0xDF00000000000000#64 = .error .unlistedOpcode ∧ State.reset.schedule = [] ∧
      { State.reset with schedule := [Slot.tick] }.schedule = .tick :: [] := by decide

theorem witness_ResetSyncAndOriginWrite :
    (State.reset.modeState = .tracking ∨ State.reset.modeState = .slewingRequest) ∧
      ({ ratio8 with modeState := .slewingRequest }.modeState = .tracking ∨
        { ratio8 with modeState := .slewingRequest }.modeState = .slewingRequest) := by decide

/-- SETINSTR (the motor) and SETTARGET (the index, 0) at the two ends of the range and one step beyond. -/
theorem witness_CoordinateWritesStoreDifference :
    InS32 ((0x7FFFFFFF#32).toInt - (at4 0#32 0#32 0#32 0#32).motorSteps.toInt) ∧
      InS32 ((0x80000000#32).toInt - (at4 0#32 0#32 0#32 0#32).indexSteps.toInt) ∧
      ¬InS32 ((0x80000000#32).toInt - (at4 1#32 0#32 0#32 0#32).motorSteps.toInt) ∧
      ¬InS32 ((0x7FFFFFFF#32).toInt - { State.reset with indexSteps := (-1) }.indexSteps.toInt) := by decide

/-- `m` = 0, the smallest and the largest modulo, and a rounding that falls outside the range. -/
theorem witness_ParkWritesStoreRounding :
    (0#16 : BitVec 16) = 0#16 ∧ (1#16 : BitVec 16) ≠ 0#16 ∧ (0xFFFF#16 : BitVec 16) ≠ 0#16 ∧
      InS32 (parkRound ((0x7FFFFFFF#32).toInt - State.reset.motorSteps.toInt) (1#16).toNat) ∧
      InS32 (parkRound ((5#32).toInt - State.reset.indexSteps.toInt) (0xFFFF#16).toNat) ∧
      ¬InS32 (parkRound ((0x7FFFFFFF#32).toInt - (at4 (-10) 0#32 0#32 0#32).motorSteps.toInt) (1#16).toNat) ∧
      ¬InS32 (parkRound ((0x7FFFFFFF#32).toInt - { State.reset with indexSteps := (-10) }.indexSteps.toInt)
        (1#16).toNat) := by decide

theorem witness_ParkRoundIsNearestMultiple : 0 < 1 := by decide

/-- An accepted write and a register written over in between, and a refused write. -/
theorem witness_ParkWritesAreIdempotent :
    let t := after (.setTargetPark 1000#32 1#16) State.reset;
    let u := { t with targetSteps := 77#32, motorSteps := 5#32 };
    let t2 := after (.setInstrPark 1000#32 16#16) State.reset;
    let u2 := { t2 with indexSteps := 77#32, targetSteps := 5#32 };
    let r := after (.setTargetPark 1000#32 0#16) State.reset;
    (exec (.setTargetPark 1000#32 1#16) State.reset = .next t ∧ u.indexSteps = State.reset.indexSteps ∧
        ((1#16 : BitVec 16) ≠ 0#16 ∧ InS32 (parkRound ((1000#32).toInt - State.reset.indexSteps.toInt) (1#16).toNat)) ∧
        exec (.setTargetPark 1000#32 1#16) u = .next (after (.setTargetPark 1000#32 1#16) u)) ∧
      (exec (.setInstrPark 1000#32 16#16) State.reset = .next t2 ∧ u2.motorSteps = State.reset.motorSteps ∧
        ((16#16 : BitVec 16) ≠ 0#16 ∧ InS32 (parkRound ((1000#32).toInt - State.reset.motorSteps.toInt) (16#16).toNat)) ∧
        exec (.setInstrPark 1000#32 16#16) u2 = .next (after (.setInstrPark 1000#32 16#16) u2)) ∧
      exec (.setTargetPark 1000#32 0#16) State.reset = .next r ∧ r.indexSteps = State.reset.indexSteps ∧
      exec (.setTargetPark 1000#32 0#16) r = .next (after (.setTargetPark 1000#32 0#16) r) :=
  ⟨⟨rfl, rfl, by decide, rfl⟩, ⟨rfl, rfl, by decide, rfl⟩, rfl, rfl, rfl⟩

theorem witness_CoordinateRoundTrip :
    InS32 ((0x7FFFFFFF#32).toInt - (at4 0#32 0#32 0#32 0#32).motorSteps.toInt) ∧
      InS32 ((0x80000000#32).toInt - (at4 0#32 0#32 0#32 0#32).indexSteps.toInt) ∧
      (after (.setTarget 5#32) State.reset).indexSteps = State.reset.indexSteps := by decide

/-- Both commands at the top of the range, and one step beyond it. -/
theorem witness_BacklashFoldAndRestore :
    (State.reset.modeState = .tracking ∨ State.reset.modeState = .slewingRequest) ∧
      (let s := at4 0x7FFFFFCD#32 0#32 50#32 50#32;
        s.backlashDisabled = false ∧ InS32 (s.motorSteps.toInt + s.backlashSteps.toInt) ∧
          InS32 (s.targetSteps.toInt + s.backlashSteps.toInt)) ∧
      (let s := at4 0x7FFFFFCE#32 0#32 50#32 50#32;
        s.backlashDisabled = false ∧ ¬InS32 (s.motorSteps.toInt + s.backlashSteps.toInt)) ∧
      (let s := { at4 0x80000014#32 0#32 0#32 20#32 with backlashDisabled := true, savedBacklash := 50#32 };
        let b := min s.savedBacklash.toInt s.backlashAmountSteps.toInt;
        s.backlashDisabled = true ∧ BacklashInv s ∧ InS32 (s.motorSteps.toInt - b) ∧ InS32 (s.targetSteps.toInt - b)) ∧
      (let s := { at4 0#32 0x80000013#32 0#32 20#32 with backlashDisabled := true, savedBacklash := 50#32 };
        s.backlashDisabled = true ∧
          ¬InS32 (s.targetSteps.toInt - min s.savedBacklash.toInt s.backlashAmountSteps.toInt)) := by decide

/-- The amounts 0, the backlash itself, one less, and -1. -/
theorem witness_SetBlAmountKeepsTravelInside :
    (0 ≤ (0#32).toInt ∧ (at4 0#32 0#32 0#32 50#32).backlashSteps.toInt ≤ (0#32).toInt) ∧
      (0 ≤ (30#32).toInt ∧ (at4 0#32 0#32 30#32 50#32).backlashSteps.toInt ≤ (30#32).toInt) ∧
      (0 ≤ (0#32).toInt ∧ { at4 0#32 0#32 0#32 9#32 with backlashDisabled := true }.backlashDisabled = true) ∧
      (0xFFFFFFFF#32).toInt < 0 ∧
      ((at4 0#32 0#32 30#32 50#32).backlashDisabled = false ∧
        (29#32).toInt < (at4 0#32 0#32 30#32 50#32).backlashSteps.toInt) := by decide

/-- Each sum and distance at the end of its range and one step beyond. -/
theorem witness_PositionReadersAnswer :
    (let s := at4 0x7FFFFFFF#32 0x80000000#32 0#32 0#32;
      InS32 (s.motorSteps.toInt + s.indexSteps.toInt) ∧ InS32 (s.targetSteps.toInt + s.indexSteps.toInt) ∧
        ¬InS32 |s.targetSteps.toInt - s.motorSteps.toInt| ∧
        InS32 (min |s.motorSteps.toInt - s.originSteps.toInt| |s.targetSteps.toInt - s.motorSteps.toInt|)) ∧
      (let s := { at4 0x7FFFFFFF#32 0x7FFFFFFF#32 0#32 0#32 with indexSteps := 1#32 };
        ¬InS32 (s.motorSteps.toInt + s.indexSteps.toInt) ∧ ¬InS32 (s.targetSteps.toInt + s.indexSteps.toInt) ∧
          InS32 |s.targetSteps.toInt - s.motorSteps.toInt|) ∧
      (let s := { at4 0x80000000#32 0#32 0#32 0#32 with originSteps := 0#32 };
        ¬InS32 (min |s.motorSteps.toInt - s.originSteps.toInt| |s.targetSteps.toInt - s.motorSteps.toInt|)) := by
  decide

/-- A code table with an entry outside its domain, which the configured 16 microsteps use. -/
def badTable : State :=
  { State.reset with
    params := { Config.reference with
                model := .genericTable, genericCodeTable := { Config.reference.genericCodeTable with c16 := 9 } }
    cfg := { Config.referenceCfgInit with decay := 0#32 } }

theorem witness_CommandsAreRefusedByState :
    ¬((slewing 0#32 0#32 .fwd false 8#32).modeState = .tracking ∨
        (slewing 0#32 0#32 .fwd false 8#32).modeState = .slewingRequest) ∧
      { ratio8 with modeState := .slewingRequest }.modeState ≠ .tracking ∧ pidOk 6#3 = true ∧
      (State.reset.modeState = .tracking ∧ State.reset.backlashDisabled = false) ∧
      { State.reset with backlashDisabled := true }.backlashDisabled = true ∧
      (let s := { State.reset with cfg := { State.reset.cfg with microsteps := 512#32 } };
        validateConfig s.params s.cfg = .refuse .invalid) ∧
      (badTable.modeState = .tracking ∧ validateConfig badTable.params badTable.cfg = .unmodelled) := by decide

theorem witness_HostCommandsAnswerOnce :
    (Instr.setParam 6#3 4#32).wf = true ∧ (Instr.setParam 6#3 4#32).isHostCommand = true := by decide

/-- A FAULT, a refusal, and a DRVINIT that is refused for its configuration. -/
theorem witness_FailedCommandsWriteNoState :
    (let s := at4 0x7FFFFFFF#32 0#32 0#32 0#32;
      let t := after (.setInstr (-2)) s;
      exec (.setInstr (-2)) s = .next t ∧ t.history = s.history ++ [.resp (opcode (.setInstr (-2))) .fault 0#32]) ∧
      (let t := after .blEnable State.reset;
        exec .blEnable State.reset = .next t ∧
          t.history = State.reset.history ++ [.resp (opcode .blEnable) .unpaired 0#32]) ∧
      (let s := { inited with cfg := { inited.cfg with microsteps := 512#32 } };
        let t := after .drvInit s;
        exec .drvInit s = .next t ∧ t.history = s.history ++ [.resp (opcode .drvInit) .invalid 0#32]) :=
  ⟨⟨rfl, rfl⟩, ⟨rfl, rfl⟩, rfl, rfl⟩

theorem slowest_magnitude : f32Magnitude 0x3BFC0FC1#32 = 16519105 / 2147483648 := by
  have e : f32Exponent 0x3BFC0FC1#32 = 119 := by decide
  have f : f32Fraction 0x3BFC0FC1#32 = 8130497 := by decide
  simp only [f32Magnitude, e, f]
  norm_num

theorem too_slow_magnitude : f32Magnitude 0x3BFC0FC0#32 = 16519104 / 2147483648 := by
  have e : f32Exponent 0x3BFC0FC0#32 = 119 := by decide
  have f : f32Fraction 0x3BFC0FC0#32 = 8130496 := by decide
  simp only [f32Magnitude, e, f]
  norm_num

/-- An infinity, zero, and the two patterns on either side of the slowest frequency (rows F5, F6, F9, F10). -/
theorem witness_ClassifyFollowsExactFrequency :
    f32Exponent 0x7F800000#32 = 255 ∧ (f32Exponent 0x80000000#32 ≠ 255 ∧ f32Magnitude 0x80000000#32 = 0) ∧
      (f32Exponent 0x3BFC0FC0#32 ≠ 255 ∧ f32Magnitude 0x3BFC0FC0#32 ≠ 0 ∧
        130000000 < 1000000 / f32Magnitude 0x3BFC0FC0#32) ∧
      (f32Exponent 0x3BFC0FC1#32 ≠ 255 ∧ f32Magnitude 0x3BFC0FC1#32 ≠ 0 ∧
        1000000 / f32Magnitude 0x3BFC0FC1#32 ≤ 130000000) := by
  rw [slowest_magnitude, too_slow_magnitude]
  refine ⟨by decide, ⟨by decide, ?_⟩, ⟨by decide, by norm_num, by norm_num⟩, by decide, by norm_num, by norm_num⟩
  have e : f32Exponent 0x80000000#32 = 0 := by decide
  have f : f32Fraction 0x80000000#32 = 0 := by decide
  simp [f32Magnitude, e, f]

theorem witness_TooSlowFrequencyReadsZero :
    f32Exponent 0x3BFC0FC0#32 ≠ 255 ∧ f32Magnitude 0x3BFC0FC0#32 ≠ 0 ∧
      130000000 < 1000000 / f32Magnitude 0x3BFC0FC0#32 := witness_ClassifyFollowsExactFrequency.2.2.1

theorem witness_SetFreqArmsTimer :
    classify 0x3BFC0FC0#32 = .stop ∧ (classify 0x3BFC0FC1#32).runs = true ∧ 1 ≤ State.reset.params.kSub ∧
      1 ≤ State.reset.params.periodMinSub ∧
      (let s := State.resetWith { Config.reference with kSub := 0 };
        ¬(1 ≤ s.params.kSub ∧ 1 ≤ s.params.periodMinSub)) := by decide

theorem witness_EnableAndPowerDriveEnPin :
    ((false = false ∨ State.reset.driverReady = true) ∧ State.reset.preempt = []) ∧
      (true = false ∨ inited.driverReady = true) ∧ State.reset.driverReady = false := by decide

/-- At the gate; idle in a pause, and idle while disabled, in TRACKING and off a boundary; with the timer and as the grace
tick. -/
theorem witness_StandardTickGateAndIdle :
    (let s := { ratio8 with motorSteps := 1000#32, modeState := .slewingRequest, graceTick := true };
      s.handler = .standard ∧ (s.timerRunning = true ∨ s.graceTick = true) ∧ atBoundary s = true) ∧
      (let s := { paused with timerRunning := true };
        s.handler = .standard ∧ s.timerRunning = true ∧
          ¬(s.modeState = .tracking ∨ s.modeState = .slewingRequest)) ∧
      (let s := { ratio8 with motorSteps := 1001#32, modeState := .slewingRequest, timerRunning := true };
        s.enabled = false ∧ ¬(s.modeState = .slewingRequest ∧ atBoundary s = true)) ∧
      (let s := { ratio8 with timerRunning := true };
        s.enabled = false ∧ ¬(s.modeState = .slewingRequest ∧ atBoundary s = true)) := by decide

/-- What every case of a working standard tick asks for. -/
abbrev TickWorks (s : State) : Prop :=
  s.handler = .standard ∧ s.timerRunning = true ∧ s.enabled = true ∧
    (s.modeState = .tracking ∨ (s.modeState = .slewingRequest ∧ atBoundary s = false))

/-- The five cases, each at the edge of its range, the overflow, and a tick in SLEWING_REQUEST off a boundary. -/
theorem witness_StandardTickSteps :
    (let s := moving 6#32 5#32 1#32 50#32 false 0#32;
      TickWorks s ∧ InS32 s.targetSteps.toInt ∧ s.targetSteps.toInt < s.motorSteps.toInt ∧ 0 < s.backlashSteps.toInt) ∧
      (let s := moving 6#32 5#32 0#32 50#32 false 0#32;
        TickWorks s ∧ s.targetSteps.toInt < s.motorSteps.toInt ∧ s.backlashSteps.toInt ≤ 0) ∧
      (let s := moving 5#32 6#32 49#32 50#32 false 0#32;
        TickWorks s ∧ s.motorSteps.toInt < s.targetSteps.toInt ∧ s.backlashSteps.toInt < amountEff s) ∧
      (let s := moving 5#32 6#32 50#32 50#32 false 0#32;
        TickWorks s ∧ s.motorSteps.toInt < s.targetSteps.toInt ∧ amountEff s ≤ s.backlashSteps.toInt) ∧
      (let s := moving 5#32 5#32 0#32 50#32 false 0#32;
        TickWorks s ∧ s.motorSteps.toInt = s.targetSteps.toInt) ∧
      (let s := moving 0x7FFFFFFF#32 0x7FFFFFFF#32 0#32 0#32 true 1#32;
        TickWorks s ∧ s.synchronized = true ∧ inBacklash s = false ∧ ¬InS32 (s.targetSteps.toInt + s.step.toInt)) ∧
      TickWorks { ratio8 with motorSteps := 1001#32, modeState := .slewingRequest, enabled := true,
                              timerRunning := true } := by decide

/-- Idle, moving each way by exactly what is left, standing one short of it, and the overflow. -/
theorem witness_FastTickSteps :
    (let s := { slewing 0#32 0#32 .fwd false 8#32 with modeState := .slewingReady };
      s.handler = .fast ∧ s.timerRunning = true ∧ s.modeState ≠ .slewing) ∧
      (let s := slewing 1008#32 1016#32 .fwd false 8#32;
        s.modeState = .slewing ∧ s.enabled = true ∧ s.dir = .fwd ∧ 1 ≤ homeSteps s ∧
          homeSteps s ≤ s.targetSteps.toInt - s.motorSteps.toInt) ∧
      (let s := slewing 1016#32 1008#32 .rev false 8#32;
        s.dir = .rev ∧ homeSteps s ≤ -(s.targetSteps.toInt - s.motorSteps.toInt)) ∧
      (let s := slewing 1008#32 1015#32 .fwd false 8#32;
        ¬(s.dir = .fwd ∧ homeSteps s ≤ s.targetSteps.toInt - s.motorSteps.toInt) ∧
          ¬(s.dir = .rev ∧ homeSteps s ≤ -(s.targetSteps.toInt - s.motorSteps.toInt))) ∧
      (let s := slewing 0x7FFFFFF8#32 0x7FFFFFF8#32 .fwd true 8#32;
        s.synchronized = true ∧ ¬InS32 (s.targetSteps.toInt + s.step.toInt)) := by decide

theorem witness_TickPositionInvariant :
    (let s := moving 1000#32 1200#32 49#32 50#32 false 1#32;
      exec .evTickStd s = .next (after .evTickStd s) ∧ 0 ≤ s.backlashSteps.toInt ∧
        s.backlashSteps.toInt ≤ amountEff s) ∧
      (let s := slewing 1008#32 1016#32 .fwd false 8#32;
        exec .evTickFast s = .next (after .evTickFast s)) :=
  ⟨⟨rfl, by decide, by decide⟩, rfl⟩

/-- A tick that moves, and an idle one. -/
theorem witness_OnePulsePerPositionChange :
    (let s := slewing 1008#32 1016#32 .fwd false 8#32;
      GateInv s ∧ exec .evTickFast s = .next (after .evTickFast s)) ∧
      (GateInv State.reset ∧ State.reset.enabled = false ∧
        exec .evTickStd State.reset = .next (after .evTickStd State.reset)) :=
  ⟨⟨by decide, rfl⟩, by decide, by decide, rfl⟩

theorem witness_TicksLeaveDriverStateAlone :
    let s := moving 1000#32 1200#32 49#32 50#32 false 1#32;
    exec .evTickStd s = .next (after .evTickStd s) ∧
      { s.cfg with decay := 4#32 }.microsteps = s.cfg.microsteps ∧
      { s.cfg with decay := 4#32 }.microstepsSlewing = s.cfg.microstepsSlewing :=
  ⟨rfl, rfl, rfl⟩

theorem witness_GraceTickComesOnce :
    (State.reset.timerRunning = false ∧ State.reset.graceTick = false ∧ State.reset.handler = .standard) ∧
      (slewing 0#32 0#32 .fwd false 8#32).handler = .fast ∧
      (let s := { moving 0#32 1#32 0#32 0#32 false 0#32 with timerRunning := false, graceTick := true };
        s.timerRunning = false ∧ s.graceTick = true ∧ s.faults.overflow = false ∧
          exec (tickInstr s) s = .next (after (tickInstr s) s) ∧ (after (tickInstr s) s).faults = s.faults) :=
  ⟨⟨rfl, rfl, rfl⟩, rfl, rfl, rfl, rfl, rfl, rfl⟩

/-- One state for each poll. -/
theorem witness_PlainModePolls :
    State.reset.preempt = [] ∧
      (let s := { ratio8 with slewHint := true };
        s.preempt = [] ∧ s.modeState = .tracking ∧ switchable s = true) ∧
      (State.reset.modeState = .tracking ∧ ¬(State.reset.slewHint = true ∧ switchable State.reset = true)) ∧
      (let s := { ratio8 with modeState := .slewingRequest };
        s.preempt = [] ∧ s.slewHint = false) ∧
      (let s := { ratio8 with modeState := .slewingRequest, slewHint := true };
        s.preempt = [] ∧ s.slewHint = true) ∧
      (let s := { paused with slewHint := false };
        s.preempt = [] ∧ s.modeState = .slewingPause ∧ s.slewHint = false) ∧
      (let s := { slewing 0#32 0#32 .fwd false 8#32 with modeState := .slewingReady };
        s.preempt = [] ∧ s.modeState = .slewingReady) ∧
      (let s := { slewing 0#32 0#32 .fwd false 8#32 with slewHint := true };
        s.preempt = [] ∧ s.modeState = .slewing ∧ s.slewHint = true) := by decide

theorem witness_SwitchToSlewingReconfigures :
    ParamsOk paused.params ∧ paused.preempt = [] ∧ paused.modeState = .slewingPause ∧ paused.slewHint = true ∧
      atBoundary paused = true ∧ SequencerInv paused :=
  ⟨paramsOk_ofModel .tmcSpiA, by decide, by decide, by decide, by decide, by decide⟩

theorem witness_SwitchBackReconfigures :
    let s := { slewing 1400#32 1400#32 .fwd false 0#32 with timerRunning := false };
    (ParamsOk s.params ∧ s.preempt = [] ∧ atBoundary s = true ∧ s.modeState = .slewing ∧ s.slewHint = false ∧
        SequencerInv s) ∧
      let t := { s with modeState := .trackingReady, handler := .standard };
      ParamsOk t.params ∧ t.preempt = [] ∧ atBoundary t = true ∧ t.modeState = .trackingReady :=
  ⟨⟨paramsOk_ofModel .tmcSpiA, by decide, by decide, by decide, by decide, by decide⟩, paramsOk_ofModel .tmcSpiA,
    by decide, by decide, by decide⟩

theorem witness_GatingFaultOffBoundary :
    (let s := { paused with motorSteps := 1001#32 };
      s.preempt = [] ∧ atBoundary s = false ∧ s.modeState = .slewingPause ∧ s.slewHint = true) ∧
      (let s := slewing 1001#32 1400#32 .fwd false 8#32;
        s.preempt = [] ∧ atBoundary s = false ∧ s.modeState = .slewing ∧ s.slewHint = false) ∧
      (let s := { ratio8 with motorSteps := 1001#32, modeState := .trackingReady };
        s.preempt = [] ∧ atBoundary s = false ∧ s.modeState = .trackingReady) := by decide

/-- A move that changes the mode state. -/
theorem witness_StepsFollowTransitionTable :
    let s := { ratio8 with slewHint := true };
    runSlot (.raised 0xF200000000000000#64) s = .next (after .evModePoll s) ∧
      (after .evModePoll s).modeState = .slewingRequest := ⟨rfl, rfl⟩

theorem witness_UnsupportedSwitchStaysTracking :
    let s := { State.resetWith { Config.reference with modeSwitchSupported := false } with slewHint := true };
    s.params.modeSwitchSupported = false ∧ s.modeState = .tracking ∧ s.handler = .standard ∧
      runSlot (.raised 0xF200000000000000#64) s = .next (after .evModePoll s) := ⟨rfl, rfl, rfl, rfl⟩

/-- A target 8 ahead, one step after a boundary, and a target 8 behind, one step before one. -/
theorem witness_RequestMeetsGateWithinRatio :
    let s := { ratio8 with motorSteps := 1001#32, targetSteps := 1009#32, modeState := .slewingRequest,
                           timerRunning := true, enabled := true, schedule := List.replicate 8 Slot.tick };
    let b := { s with motorSteps := 999#32, targetSteps := 991#32 };
    (s.modeState = .slewingRequest ∧ s.handler = .standard ∧ s.timerRunning = true ∧ s.enabled = true ∧
        s.synchronized = false ∧ BacklashInv s ∧ 1 ≤ homeSteps s ∧
        homeSteps s ≤ |s.targetSteps.toInt - s.motorSteps.toInt| ∧
        s.schedule = List.replicate (homeSteps s).toNat .tick) ∧
      b.modeState = .slewingRequest ∧ b.handler = .standard ∧ b.timerRunning = true ∧ b.enabled = true ∧
      b.synchronized = false ∧ BacklashInv b ∧ 1 ≤ homeSteps b ∧
      homeSteps b ≤ |b.targetSteps.toInt - b.motorSteps.toInt| ∧
      b.schedule = List.replicate (homeSteps b).toNat .tick := by decide

/-- Without a slewing count, and with one; the ratio is 1 for equal counts (row V4). -/
theorem witness_StepRatioIsPowerOfTwo :
    (validateConfig State.reset.params State.reset.cfg = .ok ∧ State.reset.cfg.microstepsSlewing = 0xFFFFFFFF#32) ∧
      (validateConfig ratio8.params ratio8.cfg = .ok ∧ ratio8.cfg.microstepsSlewing ≠ 0xFFFFFFFF#32) ∧
      (let s := { ratio8 with cfg := { ratio8.cfg with microstepsSlewing := 16#32 } };
        validateConfig s.params s.cfg = .ok ∧ homeSteps s = 1) := by decide

theorem witness_MicrostepCodesAreValid :
    ParamsOk Config.reference ∧ (256 : Int) ∈ ([1, 2, 4, 8, 16, 32, 64, 128, 256] : List Int) ∧
      (3 : Int) ∉ ([1, 2, 4, 8, 16, 32, 64, 128, 256] : List Int) ∧ Config.reference.model.cls ≠ .generic :=
  ⟨paramsOk_ofModel .tmcSpiA, by decide, by decide, by decide⟩

theorem witness_CurrentScaleFollowsFormula :
    0 < Config.reference.rsense.num ∧ 0 < Config.reference.rsense.den ∧ (0 : Int) ≤ 0 := by decide

/-- Ids 0 and 6 and the field 7; a value that is accepted, one that is refused, one whose code is outside its domain. -/
theorem witness_ParameterCommandsValidate :
    paramOfField 0#3 = some .microsteps ∧ paramOfField 6#3 = some .decaySlewing ∧ State.reset.modeState = .tracking ∧
      validateConfig State.reset.params (cfgSet State.reset.cfg .decaySlewing 4#32) = .ok ∧
      validateConfig State.reset.params (cfgSet State.reset.cfg .microsteps 12#32) = .refuse .invalid ∧
      validateConfig badTable.params (cfgSet badTable.cfg .currentRun 1#32) = .unmodelled ∧
      paramOfField 3#3 = some .currentRun ∧ badTable.modeState = .tracking := by decide

/-- One model of each class; with both kinds of pin, and with neither. -/
theorem witness_DrvInitConfiguresDriver :
    (State.reset.modeState = .tracking ∧ validateConfig State.reset.params State.reset.cfg = .ok ∧
        ParamsOk State.reset.params ∧ State.reset.params.model.cls = .tmcSpi) ∧
      (let s := State.resetWith { Config.reference with model := .tmcUart };
        s.modeState = .tracking ∧ validateConfig s.params s.cfg = .ok ∧ ParamsOk s.params ∧
          s.params.model.cls = .tmcUart) ∧
      (let s := ofModel .genericDrv8825;
        s.modeState = .tracking ∧ validateConfig s.params s.cfg = .ok ∧ s.params.model.cls = .generic ∧
          s.params.hasMPins = true ∧ s.params.hasDecayPin = true) ∧
      ParamsOk { Config.reference with model := .genericDrv8825 } :=
  ⟨⟨by decide, by decide, paramsOk_ofModel .tmcSpiA, by decide⟩,
    ⟨by decide, by decide, paramsOk_ofModel .tmcUart, by decide⟩, by decide, paramsOk_ofModel .genericDrv8825⟩

theorem witness_ModeOperationsWriteRegisters :
    ((Phase.track = .track ∧ Instr.drvMsTrack = .drvMsTrack ∧ Instr.drvDecayTrack = .drvDecayTrack) ∧
        (Phase.slew = .slew ∧ Instr.drvMsSlew = .drvMsSlew ∧ Instr.drvDecaySlew = .drvDecaySlew)) ∧
      ParamsOk ratio8.params ∧ ratio8.preempt = [] ∧ ratio8.params.model.cls = .tmcSpi ∧
      ParamsOk { Config.reference with model := .tmcUart } ∧ Model.tmcUart.cls = .tmcUart ∧
      ParamsOk { Config.reference with model := .genericA4988 } ∧ Model.genericA4988.cls = .generic :=
  ⟨by decide, paramsOk_ofModel .tmcSpiA, by decide, by decide, paramsOk_ofModel .tmcUart, by decide,
    paramsOk_ofModel .genericA4988, by decide⟩

theorem witness_RepeatedModeOperationIsSilent :
    let t := after .drvMsSlew ratio8;
    let u := { t with motorSteps := 5#32 };
    Instr.drvMsSlew ∈ [Instr.drvMsTrack, .drvMsSlew, .drvDecayTrack, .drvDecaySlew] ∧ ParamsOk ratio8.params ∧
      exec .drvMsSlew ratio8 = .next t ∧ u.params = t.params ∧ u.cfg = t.cfg ∧ u.shadows = t.shadows ∧
      u.pins = t.pins :=
  ⟨by decide, paramsOk_ofModel .tmcSpiA, rfl, rfl, rfl, rfl, rfl⟩

/-- The UART reply of row K20. -/
def goodReply : List Byte := [5#8, 0xFF#8, 0x6F#8, 0x80#8, 0#8, 0#8, 0#8, 0xD0#8]

theorem witness_StatusReadDecodesReply :
    (inited.params.regAddr.drvStatus ≤ 0x7F ∧ inited.preempt = [] ∧ inited.params.model.cls = .tmcSpi ∧
        (withReplies inited [1#40, 2#40]).oracle.spi = 1#40 :: 2#40 :: []) ∧
      (let s := { State.resetWith { Config.reference with model := .tmcUart } with
                  oracle := { spi := [], uart := [some goodReply, none], faultPin := [Level.low], served := 0 } };
        s.params.regAddr.drvStatus ≤ 0x7F ∧ s.preempt = [] ∧ s.params.model.cls = .tmcUart ∧
          s.oracle.uart = some goodReply :: [none] ∧ some goodReply ≠ some [] ∧
          (none : Option (List Byte)) ≠ some []) ∧
      (uartParse { Config.reference with model := .tmcUart } .drvStatus (some goodReply) = some 0x80000000#32 ∧
        uartParse { Config.reference with model := .tmcUart } .drvStatus none = none) ∧
      (ofModel .genericA4988).params.model.cls = .generic ∧ (ofModel .genericA4988).params.hasFaultPin = false ∧
      (let s := { State.resetWith { Config.reference with model := .genericA4988, hasFaultPin := true } with
                  oracle := { spi := [], uart := [], faultPin := [Level.low], served := 0 } };
        s.params.model.cls = .generic ∧ s.params.hasFaultPin = true ∧ s.oracle.faultPin = .low :: []) := by
  decide +kernel

theorem witness_StatusPollReadsOnce :
    State.reset.driverReady = false ∧ inited.driverReady = true ∧ inited.params.regAddr.drvStatus ≤ 0x7F := by decide

/-- The all-zero reply, a reply whose data alone is zero, and bits on either side of MRES. -/
theorem witness_CodecFieldsReadBack :
    ((0#32 : Word) = 0#32 ∧ (0#8 : Byte) = 0#8) ∧ ¬((0#32 : Word) = 0#32 ∧ (1#8 : Byte) = 0#8) ∧
      ¬(24 ≤ 23 ∧ 23 ≤ 27) ∧ ¬(24 ≤ 28 ∧ 28 ≤ 27) := by decide

/-- The smallest and the largest register address. -/
theorem witness_CodecFormsRegisterBits :
    Config.reference.regAddr.addr .gconf = 0 ∧ Config.reference.regAddr.addr .gconf ≤ 0x7F ∧
      { Config.reference.regAddr with gconf := 0x7F }.addr .gconf ≤ 0x7F := by decide

/-- The default layouts, and another reply layout that carries every data byte. -/
theorem witness_UartParserAcceptsWellFormedReplies :
    (Config.reference.uartFraming.writeLayout = UartFraming.trinamic.writeLayout ∧
        Config.reference.uartFraming.requestLayout = UartFraming.trinamic.requestLayout ∧
        Config.reference.uartFraming.replyLayout = UartFraming.trinamic.replyLayout) ∧
      (∀ k, k < 4 → UartField.data k ∈ Config.reference.uartFraming.replyLayout) ∧
      ∀ k, k < 4 → UartField.data k ∈ [UartField.crc 0, .data 0, .data 1, .data 2, .data 3, .crc 1] := by decide

/-- A moving axis at its gate: the next step changes the mode state, the motor not. -/
def requested : State :=
  { ratio8 with motorSteps := 1000#32, targetSteps := 1400#32, modeState := .slewingRequest, slewHint := true,
                enabled := true, freqBits := 0x42C80000#32, timerRunning := true, periodSub := 160000, step := 1#32,
                dirLatch := .pos, schedule := [.tick] }

/-- One state that meets every invariant and takes a step that changes it. -/
theorem witness_invariants :
    Inv requested ∧ step requested = .next (after .evTickStd { requested with schedule := [] }) ∧
      (after .evTickStd { requested with schedule := [] }).modeState = .slewingPause :=
  ⟨by decide, rfl, rfl⟩

theorem witness_StepKeepsModeInvariant :
    ModeInv requested ∧ step requested = .next (after .evTickStd { requested with schedule := [] }) :=
  ⟨witness_invariants.1.1, witness_invariants.2.1⟩

/-- The backlash counter one step below its limit, and a tick that takes it there. -/
theorem witness_StepKeepsBacklashInvariant :
    let s := { moving 1000#32 1200#32 49#32 50#32 false 1#32 with schedule := [Slot.tick] };
    BacklashInv s ∧ step s = .next (after .evTickStd { s with schedule := [] }) := ⟨by decide, rfl⟩

theorem witness_StepKeepsGateInvariant :
    GateInv requested ∧ step requested = .next (after .evTickStd { requested with schedule := [] }) :=
  ⟨witness_invariants.1.2.2.1, witness_invariants.2.1⟩

theorem witness_StepKeepsSequencerInvariant :
    ModeInv requested ∧ SequencerInv requested ∧
      step requested = .next (after .evTickStd { requested with schedule := [] }) :=
  ⟨witness_invariants.1.1, witness_invariants.1.2.2.2.1, witness_invariants.2.1⟩

/-- A step that changes the configuration of a ready driver. -/
theorem witness_StepKeepsConfigInvariant :
    let s := { inited with schedule := [Slot.host 0x5201000000000002#64] };
    ConfigInv s ∧ s.driverReady = true ∧ step s = .next (after (.setParam 1#3 2#32) { s with schedule := [] }) :=
  ⟨by decide, rfl, rfl⟩

/-- A move that raises a second model fault. -/
theorem witness_FaultsStayAndParamsAreFixed :
    let s := { at4 0x7FFFFFFF#32 0#32 0#32 0#32 with
               faults := { overflow := false, gating := true, unmodelled := false } };
    runSlot (.host 0x11000000FFFFFFFE#64) s = .next (after (.setInstr (-2)) s) ∧ s.faults.has .gating = true :=
  ⟨rfl, rfl⟩

theorem witness_HistoryIsOnlyAppended :
    runSlot (.host 0x1A00000000000000#64) State.reset = .next (after .getMotor State.reset) := rfl

/-- A change of each register that one command alone may write. -/
theorem witness_RegisterWritersAreListed :
    (after (.setSync true) State.reset).synchronized ≠ State.reset.synchronized ∧
      (after (.setFreq 0x42C80000#32) State.reset).freqBits ≠ State.reset.freqBits ∧
      (after (.setEnable true) inited).enabled ≠ inited.enabled ∧
      (after (.setSlew true) State.reset).slewHint ≠ State.reset.slewHint ∧
      (after (.setBlAmount 5#32) State.reset).backlashAmountSteps ≠ State.reset.backlashAmountSteps ∧
      (after .markOrigin (at4 5#32 0#32 0#32 0#32)).originSteps ≠ (at4 5#32 0#32 0#32 0#32).originSteps ∧
      (after (.setInstr 5#32) State.reset).indexSteps ≠ State.reset.indexSteps ∧
      (after .blDisable State.reset).backlashDisabled ≠ State.reset.backlashDisabled ∧
      (after (.setParam 1#3 2#32) State.reset).cfg ≠ State.reset.cfg ∧
      (after .drvInit (ofModel .genericA4988)).driverReady ≠ (ofModel .genericA4988).driverReady ∧
      (after .evModePoll paused).handler ≠ paused.handler ∧
      (after .evStatusPoll (withReplies inited [0#40, 0#40])).status ≠ inited.status ∧
      (after .drvMsSlew ratio8).shadows ≠ ratio8.shadows := by decide

end Sys2Proof.Tests
end

section
/-! PROOFS. The invariants of 10_state.md R41, R44, R49, R53 to R55 over every step: one frame lemma for the motion of a tick,
one structure that says what a property must survive to be kept by every step, and one proof of it per invariant. -/

namespace Sys2Proof.Proofs

open Sys2Proof Sys2Proof.Machine Sys2Proof.Safety Sys2Proof.Laws

/-! ### What the motion of a tick writes -/

/-- A standard tick that works: the backlash counter stands, or goes one down from above 0, or one up below the travel in
effect; the re-arm is consumed (41_sequencer.md R148, R150). -/
theorem stdMotion_frame {s t u v : State} {a : Bool} (hu : autoAdvance s a = some u) (hv : stdMove u = some v)
    (ht : t = consumeRearm v) :
    ∃ m g b d l, (b = s.backlashSteps ∨ (0 < s.backlashSteps.toInt ∧ b = wordOfInt (s.backlashSteps.toInt - 1)) ∨
        (s.backlashSteps.toInt < amountEff s ∧ b = wordOfInt (s.backlashSteps.toInt + 1))) ∧
      t = { s with motorSteps := m, targetSteps := g, backlashSteps := b, dir := d, history := l, rearm := false
                   step := if s.rearm = true then s.pendingStep else s.step } := by
  obtain ⟨g, rfl⟩ : ∃ g, u = { s with targetSteps := g } := by
    rcases autoAdvance_eq_some hu with ⟨-, -, -, rfl⟩ | ⟨-, rfl⟩ <;> exact ⟨_, rfl⟩
  rw [consumeRearm_eq] at ht
  rcases stdMove_eq_some hv with ⟨-, hb, rfl⟩ | ⟨-, -, -, rfl⟩ | ⟨-, hb, rfl⟩ | ⟨-, -, -, rfl⟩ | ⟨-, rfl⟩
  · exact ⟨_, _, _, _, _, .inr (.inl ⟨hb, rfl⟩), ht⟩
  · exact ⟨_, _, _, _, _, .inl rfl, ht⟩
  · exact ⟨_, _, _, _, _, .inr (.inr ⟨hb, rfl⟩), ht⟩
  · exact ⟨_, _, _, _, _, .inl rfl, ht⟩
  · exact ⟨_, _, _, _, _, .inl rfl, ht⟩

/-- A fast tick that works: the motor goes a multiple of the ratio; the re-arm is consumed (41_sequencer.md R152, R150). -/
theorem fastMotion_frame {s t u v : State} {a : Bool} (hu : autoAdvance s a = some u) (hv : fastMove u = some v)
    (ht : t = consumeRearm v) :
    ∃ m g l, (∃ k : Int, m.toInt = s.motorSteps.toInt + k * homeSteps s) ∧
      t = { s with motorSteps := m, targetSteps := g, history := l, rearm := false
                   step := if s.rearm = true then s.pendingStep else s.step } := by
  obtain ⟨g, rfl⟩ : ∃ g, u = { s with targetSteps := g } := by
    rcases autoAdvance_eq_some hu with ⟨-, -, -, rfl⟩ | ⟨-, rfl⟩ <;> exact ⟨_, rfl⟩
  rw [consumeRearm_eq] at ht
  rcases fastMove_eq_some hv with ⟨-, -, hm, rfl⟩ | ⟨-, -, hm, rfl⟩ | ⟨-, -, rfl⟩
  · exact ⟨_, _, _, ⟨1, by rw [toInt_wordOfInt hm, Int.one_mul]; rfl⟩, ht⟩
  · exact ⟨_, _, _, ⟨-1, by rw [toInt_wordOfInt hm, Int.neg_one_mul]; rfl⟩, ht⟩
  · exact ⟨_, _, _, ⟨0, by rw [Int.zero_mul, Int.add_zero]⟩, ht⟩

/-- A multiple of the ratio takes the motor from boundary to boundary (00_scope.md R12). -/
theorem atBoundary_of_ratio_steps {s t : State} {k : Int} (hm : t.motorSteps.toInt = s.motorSteps.toInt + k * homeSteps s)
    (hb : t.backlashSteps = s.backlashSteps) (hc : t.cfg = s.cfg) (h : atBoundary s = true) : atBoundary t = true := by
  rw [atBoundary_iff] at h ⊢
  have hsum : t.motorSteps.toInt + t.backlashSteps.toInt =
      s.motorSteps.toInt + s.backlashSteps.toInt + k * homeStepsOf s.cfg := by
    rw [hm, hb]
    unfold homeSteps
    ring
  rw [hsum, hc, Int.add_mul_emod_self_right, h]

/-- ARM after the settling of the direction, in the form of a list of the registers that may differ. -/
theorem arm_ok_frame {s t : State} (h : arm s = .ok t) :
    ∃ g r p e n a l, t = { s with graceTick := g, timerRunning := r, periodSub := p, step := e, pendingStep := n
                                  rearm := a, dirLatch := l } :=
  ⟨_, _, _, _, _, _, _, arm_frame h⟩

/-- Transition 5 before its mode change: the direction settles, then ARM for the fast handler (42_mode_fsm.md R176). -/
theorem arm_settled_frame {s t : State} (h : arm { settleDir s with handler := .fast } = .ok t) :
    ∃ g r p e n a l d i, t = { s with graceTick := g, timerRunning := r, periodSub := p, step := e, pendingStep := n
                                      rearm := a, dirLatch := l, dir := d, history := i, handler := .fast } := by
  obtain ⟨g, r, p, e, n, a, l, ht⟩ := arm_ok_frame h
  refine ⟨g, r, p, e, n, a, l, (settleDir s).dir, (settleDir s).history, ?_⟩
  rw [ht, settleDir_frame s]

/-! ### What a property must survive -/

/-- What every step keeps, cut down to the updates that matter: `plain` gathers all registers that no invariant of the
block speaks of (and the loss of the grace tick); the rest are the tick's three effects and the conditioned writes of
`Kept`. -/
structure Carried (P : State → Prop) : Prop where
  plain : ∀ s g i o tg sy en hi sh st ld ls pn hs sc pr oc, P s →
    P { s with graceTick := s.graceTick && g, indexSteps := i, originSteps := o, targetSteps := tg, synchronized := sy
               enabled := en, slewHint := hi, shadows := sh, status := st, lastDrvStatus := ld, lastSpiStatus := ls
               pins := pn, history := hs, schedule := sc, preempt := pr, oracle := oc }
  fault : ∀ s f, P s → P (addFault s f)
  gate : ∀ s, P s → gateOpen s = true → s.handler = .standard → P { s with modeState := .slewingPause, modeReq := true }
  std : ∀ s m g b d l, P s → s.handler = .standard → trackingModes s.modeState = true →
    (b = s.backlashSteps ∨ (0 < s.backlashSteps.toInt ∧ b = wordOfInt (s.backlashSteps.toInt - 1)) ∨
      (s.backlashSteps.toInt < amountEff s ∧ b = wordOfInt (s.backlashSteps.toInt + 1))) →
    P { s with motorSteps := m, targetSteps := g, backlashSteps := b, dir := d, history := l, rearm := false
               step := if s.rearm = true then s.pendingStep else s.step }
  fast : ∀ s m g l, P s → s.handler = .fast → s.modeState = .slewing →
    (∃ k : Int, m.toInt = s.motorSteps.toInt + k * homeSteps s) →
    P { s with motorSteps := m, targetSteps := g, history := l, rearm := false
               step := if s.rearm = true then s.pendingStep else s.step }
  reset : ∀ s v, P s → trackingModes s.modeState = true →
    P { s with motorSteps := v, targetSteps := v, backlashSteps := 0#32, indexSteps := 0#32, originSteps := v
               savedBacklash := if s.backlashDisabled then 0#32 else s.savedBacklash }
  bldis : ∀ s m g, P s → trackingModes s.modeState = true → s.backlashDisabled = false →
    P { s with motorSteps := m, targetSteps := g, savedBacklash := s.backlashSteps, backlashSteps := 0#32
               backlashDisabled := true }
  blen : ∀ s m g, P s → trackingModes s.modeState = true → s.backlashDisabled = true →
    P { s with motorSteps := m, targetSteps := g, backlashSteps := wordOfInt (restoredBacklash s), savedBacklash := 0#32
               backlashDisabled := false }
  blamt : ∀ s a, P s → 0 ≤ a.toInt → ¬(s.backlashDisabled = false ∧ a.toInt < s.backlashSteps.toInt) →
    P { s with backlashAmountSteps := a }
  freq : ∀ s f u, P s → arm { s with freqBits := f } = .ok u → P u
  param : ∀ s c, P s → s.modeState = .tracking → validateConfig s.params c = .ok → P { s with cfg := c }
  notReady : ∀ s, P s → s.modeState = .tracking → P { s with driverReady := false }
  ready : ∀ s, P s → validateConfig s.params s.cfg = .ok → P { s with driverReady := true }
  tr1 : ∀ s, P s → s.modeState = .tracking → switchable s = true → P { s with modeState := .slewingRequest }
  tr2 : ∀ s, P s → s.modeState = .slewingRequest → P { s with modeState := .tracking }
  tr4 : ∀ s, P s → s.modeState = .slewingPause → P { s with modeState := .tracking, modeReq := false }
  tr5 : ∀ s t, P s → s.modeState = .slewingPause → atBoundary s = true →
    arm { settleDir s with handler := .fast } = .ok t → P { t with modeReq := false, modeState := .slewingReady }
  tr6 : ∀ s, P s → s.modeState = .slewingReady → P { s with modeState := .slewing }
  tr7 : ∀ s t, P s → s.modeState = .slewing → atBoundary s = true → arm { s with handler := .standard } = .ok t →
    P { t with modeState := .trackingReady }
  tr8 : ∀ s, P s → s.modeState = .trackingReady → P { s with modeState := .tracking }

namespace Carried

variable {P : State → Prop}

/-- `plain` for any state that agrees with `s` on what the invariants speak of. -/
theorem of_plain (c : Carried P) {s t : State} (h : P s)
    (e : t = { s with
      graceTick := s.graceTick && t.graceTick, indexSteps := t.indexSteps, originSteps := t.originSteps
      targetSteps := t.targetSteps, synchronized := t.synchronized, enabled := t.enabled, slewHint := t.slewHint
      shadows := t.shadows, status := t.status, lastDrvStatus := t.lastDrvStatus, lastSpiStatus := t.lastSpiStatus
      pins := t.pins, history := t.history, schedule := t.schedule, preempt := t.preempt, oracle := t.oracle }) : P t := by
  rw [e]
  exact c.plain _ _ _ _ _ _ _ _ _ _ _ _ _ _ _ _ _ h

theorem tick (c : Carried P) (s : State) (h : P s) : P (takeTick s) := by
  refine takeTick_induct (P := P) (fun s g h => c.plain s g _ _ _ _ _ _ _ _ _ _ _ _ _ _ _ h) c.fault c.gate ?_ ?_ s h
  · intro s t a u v h hh _ hm hu hv ht
    obtain ⟨m, g, b, d, l, hb, rfl⟩ := stdMotion_frame hu hv ht
    exact c.std s m g b d l h hh hm hb
  · intro s t a u v h hh hm hu hv ht
    obtain ⟨m, g, l, hk, rfl⟩ := fastMotion_frame hu hv ht
    exact c.fast s m g l h hh hm hk

theorem stable (c : Carried P) : Stable P where
  tick := c.tick
  preempt s l h := c.of_plain h (by simp)
  driver s sh pn o evs _ h := c.of_plain h (by simp)

/-- A setup that a valid configuration precedes leaves the configuration valid, whatever ticks come in between. -/
theorem ready_after_setup (c : Carried P) (s : State) (sh : Shadows) (hv : validateConfig s.params s.cfg = .ok)
    (h : P (preemptPoint (driverSetup { s with shadows := sh }))) :
    P { preemptPoint (driverSetup { s with shadows := sh }) with driverReady := true } := by
  have hS := stable_onlyDriverAndTicks { s with shadows := sh }
  have hfr := hS.preemptPoint (hS.driverSetup (onlyDriverAndTicks_refl _))
  refine c.ready _ h ?_
  rw [hfr]
  exact hv

theorem kept (c : Carried P) : Kept P where
  st := c.stable
  respond s op r v h := c.of_plain h (by simp [Machine.respond, emit])
  begin_ s h := c.of_plain h (by simp [beginMainLoop])
  fault := c.fault
  status s a b d h := c.of_plain h (by simp)
  enabled s e h := c.of_plain h (by simp)
  hint s e h := c.of_plain h (by simp)
  origin s e h := c.of_plain h (by simp)
  index s e h := c.of_plain h (by simp)
  target s e b h := c.of_plain h (by simp)
  sched s e h := c.of_plain h (by simp)
  reset := c.reset
  bldis := c.bldis
  blen := c.blen
  blamt := c.blamt
  freq s f := c.freq s _
  param := c.param
  notReady := c.notReady
  init s sh _ _ hv h := c.ready_after_setup s sh hv h
  tr1 := c.tr1
  tr2 := c.tr2
  tr4 := c.tr4
  tr5 := c.tr5
  tr6 := c.tr6
  tr7 := c.tr7
  tr8 := c.tr8

end Carried
end Sys2Proof.Proofs
end

section
/-! PROOFS. The five invariants of 10_state.md as `Carried` properties, and the statements that they are kept. -/

namespace Sys2Proof.Proofs

open Sys2Proof Sys2Proof.Machine Sys2Proof.Safety Sys2Proof.Laws

/-! ### Mode state, handler and request flag -/

theorem modeInv_carried : Carried ModeInv where
  plain _ _ _ _ _ _ _ _ _ _ _ _ _ _ _ _ _ h := h
  fault _ _ h := h
  gate s h ho hh := by simp [ModeInv, hh]
  std _ _ _ _ _ _ h _ _ _ := h
  fast _ _ _ _ h _ _ _ := h
  reset _ _ h _ := h
  bldis _ _ _ h _ _ := h
  blen _ _ _ h _ _ := h
  blamt _ _ h _ _ := h
  freq s f u h e := by
    obtain ⟨_, _, _, _, _, _, _, rfl⟩ := arm_ok_frame e
    exact h
  param _ _ h _ _ := h
  notReady _ h _ := h
  ready _ h _ := h
  tr1 s h hm _ := by simpa [ModeInv, hm] using h
  tr2 s h hm := by simpa [ModeInv, hm] using h
  tr4 s h hm := by simpa [ModeInv, hm] using h.2
  tr5 s t _ _ _ e := by
    obtain ⟨_, _, _, _, _, _, _, _, _, rfl⟩ := arm_settled_frame e
    simp [ModeInv]
  tr6 s h hm := by simpa [ModeInv, hm] using h
  tr7 s t h hm _ e := by
    obtain ⟨_, _, _, _, _, _, _, rfl⟩ := arm_ok_frame e
    simpa [ModeInv, hm] using h.1
  tr8 s h hm := by simpa [ModeInv, hm] using h

/-- Settles O53: the mode changes only in the gate and the polls, each with its flag and handler. -/
theorem stepKeepsModeInvariant : Obligations.StepKeepsModeInvariant :=
  fun _ _ h e => modeInv_carried.kept.of_step h e

/-! ### The backlash counter -/

theorem zero_word_nonneg : 0 ≤ (0#32 : Word).toInt := by decide

/-- BLENABLE restores an offset between 0 and the amount (40_position.md R118). -/
theorem restoredBacklash_bounds {s : State} (h : BacklashInv s) :
    0 ≤ (wordOfInt (restoredBacklash s)).toInt ∧
      (wordOfInt (restoredBacklash s)).toInt ≤ s.backlashAmountSteps.toInt := by
  obtain ⟨-, -, ha, hv⟩ := h
  obtain ⟨-, hi⟩ := toInt_inS32 s.backlashAmountSteps
  have hr : InS32 (restoredBacklash s) := by
    unfold restoredBacklash InS32
    omega
  rw [toInt_wordOfInt hr]
  unfold restoredBacklash
  omega

/-- One step of the backlash counter inside its travel stays inside (41_sequencer.md R148). -/
theorem backlash_step_bounds {s : State} {b : Word} (h : BacklashInv s)
    (hb : b = s.backlashSteps ∨ (0 < s.backlashSteps.toInt ∧ b = wordOfInt (s.backlashSteps.toInt - 1)) ∨
      (s.backlashSteps.toInt < amountEff s ∧ b = wordOfInt (s.backlashSteps.toInt + 1))) :
    0 ≤ b.toInt ∧ b.toInt ≤ amountEff s := by
  obtain ⟨h0, h1, -, -⟩ := h
  obtain ⟨-, hi⟩ := toInt_inS32 s.backlashSteps
  rcases hb with rfl | ⟨hb, rfl⟩ | ⟨hb, rfl⟩
  · exact ⟨h0, h1⟩
  · rw [toInt_wordOfInt (by unfold InS32; omega)]
    omega
  · have hmax : amountEff s ≤ 2147483647 := by
      unfold amountEff
      split
      · decide
      · exact (toInt_inS32 s.backlashAmountSteps).2
    rw [toInt_wordOfInt (by unfold InS32; omega)]
    omega

theorem backlashInv_carried : Carried BacklashInv where
  plain _ _ _ _ _ _ _ _ _ _ _ _ _ _ _ _ _ h := h
  fault _ _ h := h
  gate _ h _ _ := h
  std s m g b d l h _ _ hb :=
    have hbb := backlash_step_bounds h hb
    ⟨hbb.1, hbb.2, h.2.2⟩
  fast _ _ _ _ h _ _ _ := h
  reset s v h _ := by
    obtain ⟨h0, h1, ha, hv⟩ := h
    refine ⟨zero_word_nonneg, le_trans h0 h1, ha, ?_⟩
    show 0 ≤ (if s.backlashDisabled then 0#32 else s.savedBacklash).toInt
    split
    · exact zero_word_nonneg
    · exact hv
  bldis s m g h _ _ := ⟨zero_word_nonneg, by simp [amountEff], h.2.2.1, h.1⟩
  blen s m g h _ _ :=
    have hr := restoredBacklash_bounds h
    ⟨hr.1, hr.2, h.2.2.1, zero_word_nonneg⟩
  blamt s a h ha hc := by
    obtain ⟨h0, h1, -, hv⟩ := h
    refine ⟨h0, ?_, ha, hv⟩
    unfold amountEff at h1 ⊢
    cases hd : s.backlashDisabled
    · simpa [hd] using hc
    · simpa [hd] using h1
  freq s f u h e := by
    obtain ⟨_, _, _, _, _, _, _, rfl⟩ := arm_ok_frame e
    exact h
  param _ _ h _ _ := h
  notReady _ h _ := h
  ready _ h _ := h
  tr1 _ h _ _ := h
  tr2 _ h _ := h
  tr4 _ h _ := h
  tr5 s t h _ _ e := by
    obtain ⟨_, _, _, _, _, _, _, _, _, rfl⟩ := arm_settled_frame e
    exact h
  tr6 _ h _ := h
  tr7 s t h _ _ e := by
    obtain ⟨_, _, _, _, _, _, _, rfl⟩ := arm_ok_frame e
    exact h
  tr8 _ h _ := h

/-- Settles O54: the counter moves only inside the travel in effect, and the travel changes only where the counter allows. -/
theorem stepKeepsBacklashInvariant : Obligations.StepKeepsBacklashInvariant :=
  fun _ _ h e => backlashInv_carried.kept.of_step h e

/-! ### The gate -/

/-- The modes in which the standard handler works lie before the gate. -/
theorem not_switching_of_trackingModes {s : State} (h : trackingModes s.modeState = true) : ¬Switching s := by
  rcases trackingModes_iff.1 h with hm | hm <;> simp [Switching, hm]

/-- Before the gate, and where the mode, the configuration and the readiness stand, the position is free. -/
theorem gateInv_before_gate {s t : State} (h : GateInv s) (hs : trackingModes s.modeState = true)
    (hm : t.modeState = s.modeState) (hc : t.cfg = s.cfg) (hr : t.driverReady = s.driverReady) : GateInv t := by
  refine ⟨fun ht => absurd ht (not_switching_of_trackingModes (by rw [hm]; exact hs)), ?_⟩
  unfold homeSteps
  rw [hm, hc, hr]
  exact h.2

/-- In TRACKING the invariant asks for nothing. -/
theorem gateInv_of_tracking {s : State} (h : s.modeState = .tracking) : GateInv s :=
  ⟨fun hs => absurd hs (not_switching_of_trackingModes (by rw [h]; rfl)), fun hn => absurd h hn⟩

/-- Outside TRACKING a new mode on a boundary meets the invariant. -/
theorem gateInv_of_boundary {s t : State} (h : GateInv s) (hs : s.modeState ≠ .tracking) (hb : atBoundary t = true)
    (hc : t.cfg = s.cfg) (hr : t.driverReady = s.driverReady) : GateInv t := by
  refine ⟨fun _ => hb, fun _ => ?_⟩
  unfold homeSteps
  rw [hc, hr]
  exact h.2 hs

theorem gateInv_carried : Carried GateInv where
  plain _ _ _ _ _ _ _ _ _ _ _ _ _ _ _ _ _ h := h
  fault _ _ h := h
  gate s h ho _ := by
    obtain ⟨hm, hb⟩ := Bool.and_eq_true_iff.1 ho
    exact gateInv_of_boundary h (by simp [beq_iff_eq.1 hm]) hb rfl rfl
  std s m g b d l h _ hm _ := gateInv_before_gate h hm rfl rfl rfl
  fast s m g l h _ hm hk := by
    obtain ⟨k, hk⟩ := hk
    exact gateInv_of_boundary h (by simp [hm]) (atBoundary_of_ratio_steps hk rfl rfl (h.1 (.inr (.inr (.inl hm))))) rfl rfl
  reset s v h hm := gateInv_before_gate h hm rfl rfl rfl
  bldis s m g h hm _ := gateInv_before_gate h hm rfl rfl rfl
  blen s m g h hm _ := gateInv_before_gate h hm rfl rfl rfl
  blamt _ _ h _ _ := h
  freq s f u h e := by
    obtain ⟨_, _, _, _, _, _, _, rfl⟩ := arm_ok_frame e
    exact h
  param s c h hm _ := gateInv_of_tracking hm
  notReady s h hm := gateInv_of_tracking hm
  ready s h _ := ⟨h.1, fun hm => ⟨(h.2 hm).1, rfl⟩⟩
  tr1 s h _ hsw := by
    obtain ⟨-, hr, hd⟩ := switchable_iff.1 hsw
    exact ⟨by simp [Switching], fun _ => ⟨hr, hd⟩⟩
  tr2 _ _ _ := gateInv_of_tracking rfl
  tr4 _ _ _ := gateInv_of_tracking rfl
  tr5 s t h hm hb e := by
    obtain ⟨_, _, _, _, _, _, _, _, _, rfl⟩ := arm_settled_frame e
    exact gateInv_of_boundary h (by simp [hm]) hb rfl rfl
  tr6 s h hm := gateInv_of_boundary h (by simp [hm]) (h.1 (.inr (.inl hm))) rfl rfl
  tr7 s t h hm hb e := by
    obtain ⟨_, _, _, _, _, _, _, rfl⟩ := arm_ok_frame e
    exact gateInv_of_boundary h (by simp [hm]) hb rfl rfl
  tr8 _ _ _ := gateInv_of_tracking rfl

/-- Settles O55: the gate opens on a boundary, and past it the motor moves by the ratio or not at all. -/
theorem stepKeepsGateInvariant : Obligations.StepKeepsGateInvariant :=
  fun _ _ h e => gateInv_carried.kept.of_step h e

/-! ### The sequencer -/

/-- The last part of ARM gives the step and the latch that the invariant asks for, from any state whose pending re-arm has
a step of 0 (41_sequencer.md R143). -/
theorem armStep_step {s : State} (d : Sign) (h0 : s.rearm = true → s.step = 0#32) :
    ((armStep s d).rearm = true →
      (armStep s d).step = 0#32 ∧ (armStep s d).pendingStep = wordOfInt (d.toInt * armMult s)) ∧
    ((armStep s d).rearm = false → (armStep s d).step = wordOfInt (d.toInt * armMult s)) := by
  rw [armStep_eq]
  by_cases hd : s.dirLatch = d
  · cases hr : s.rearm
    · simp [hd]
    · simp [hd, h0 hr]
  · simp [hd]

/-- ARM writes what the invariant asks for, whatever the handler and the frequency were before (41_sequencer.md R143). -/
theorem arm_sequencerInv {s t : State} (e : arm s = .ok t) (h0 : s.rearm = true → s.step = 0#32) : SequencerInv t := by
  rcases arm_cases s with ⟨hc, e'⟩ | ⟨d, n, m, hc, hp, e'⟩ | ⟨d, n, m, hc, hp, e'⟩ <;> rw [e'] at e <;> cases e
  · obtain ⟨hre, hno⟩ := armStep_step (s := { s with
      graceTick := s.graceTick || s.timerRunning, timerRunning := false, periodSub := 0 }) .zero h0
    rw [armStep_eq] at hre hno ⊢
    exact ⟨by rw [hc]; rfl, by rw [hc]; rfl, by unfold armedPeriod; rw [hc], hre, hno, fun _ => rfl, nofun⟩
  · obtain ⟨hre, hno⟩ := armStep_step (s := { s with
      periodSub := periodOf s.params n m (armMult s), timerRunning := true, graceTick := false }) d h0
    rw [armStep_eq] at hre hno ⊢
    exact ⟨by rw [hc]; rfl, by rw [hc]; rfl, by unfold armedPeriod; rw [hc]; rfl, hre, hno, nofun, fun _ => hp⟩

theorem step_zero_of_rearm {s : State} (h : SequencerInv s) (hr : s.rearm = true) : s.step = 0#32 := by
  obtain ⟨-, -, -, hre, -, -, -⟩ := h
  exact (hre hr).1

/-- The motion of a tick moves a pending step into `step` (41_sequencer.md R150). -/
theorem sequencerInv_of_motion {s t : State} (h : SequencerInv s)
    (ht : t = { s with motorSteps := t.motorSteps, targetSteps := t.targetSteps, backlashSteps := t.backlashSteps
                       dir := t.dir, history := t.history, rearm := false
                       step := if s.rearm = true then s.pendingStep else s.step }) : SequencerInv t := by
  obtain ⟨hrun, hdir, hper, hre, hno, hgr, hok⟩ := h
  rw [ht]
  refine ⟨hrun, hdir, hper, nofun, fun _ => ?_, hgr, hok⟩
  show (if s.rearm = true then s.pendingStep else s.step) = _
  cases hr : s.rearm
  · exact hno hr
  · exact (hre hr).2

/-- In TRACKING the standard handler is installed. -/
theorem handler_of_tracking {s : State} (h : ModeInv s) (hm : s.modeState = .tracking) : s.handler = .standard := by
  cases hh : s.handler
  · rfl
  · have := h.2.2 hh
    simp [hm] at this

/-- With the standard handler the multiplier of ARM is 1, so the configuration has no part in the invariant. -/
theorem sequencerInv_cfg {s : State} (c : DriverConfig) (hh : s.handler = .standard) (h : SequencerInv s) :
    SequencerInv { s with cfg := c } := by
  have hmult : armMult { s with cfg := c } = armMult s := by simp [armMult, hh]
  have hper : armedPeriod { s with cfg := c } = armedPeriod s := by
    unfold armedPeriod
    rw [hmult]
  unfold SequencerInv
  rw [hper, hmult]
  exact h

/-- The invariant of the sequencer together with the agreement of mode and handler that it rests on. -/
abbrev ModeSequencerInv (s : State) : Prop := ModeInv s ∧ SequencerInv s

theorem modeSequencerInv_carried : Carried ModeSequencerInv where
  plain s g i o tg sy en hi sh st ld ls pn hs sc pr oc h := by
    obtain ⟨hm, hrun, hdir, hper, hre, hno, hgr, hok⟩ := h
    exact ⟨hm, hrun, hdir, hper, hre, hno, fun hg => hgr (Bool.and_eq_true_iff.1 hg).1, hok⟩
  fault _ _ h := h
  gate s h ho hh := ⟨modeInv_carried.gate s h.1 ho hh, h.2⟩
  std s m g b d l h _ _ _ := ⟨h.1, sequencerInv_of_motion h.2 rfl⟩
  fast s m g l h _ _ _ := ⟨h.1, sequencerInv_of_motion h.2 rfl⟩
  reset _ _ h _ := h
  bldis _ _ _ h _ _ := h
  blen _ _ _ h _ _ := h
  blamt _ _ h _ _ := h
  freq s f u h e := ⟨modeInv_carried.freq s f u h.1 e, arm_sequencerInv e (step_zero_of_rearm (s := s) h.2)⟩
  param s c h hm _ := ⟨h.1, sequencerInv_cfg c (handler_of_tracking h.1 hm) h.2⟩
  notReady _ h _ := h
  ready _ h _ := h
  tr1 s h hm hsw := ⟨modeInv_carried.tr1 s h.1 hm hsw, h.2⟩
  tr2 s h hm := ⟨modeInv_carried.tr2 s h.1 hm, h.2⟩
  tr4 s h hm := ⟨modeInv_carried.tr4 s h.1 hm, h.2⟩
  tr5 s t h hm hb e := by
    have hseq := arm_sequencerInv e (by rw [settleDir_frame s]; exact step_zero_of_rearm (s := s) h.2)
    exact ⟨modeInv_carried.tr5 s t h.1 hm hb e, hseq⟩
  tr6 s h hm := ⟨modeInv_carried.tr6 s h.1 hm, h.2⟩
  tr7 s t h hm hb e := by
    have hseq := arm_sequencerInv e (step_zero_of_rearm (s := s) h.2)
    exact ⟨modeInv_carried.tr7 s t h.1 hm hb e, hseq⟩
  tr8 s h hm := ⟨modeInv_carried.tr8 s h.1 hm, h.2⟩

/-- Settles O56: ARM runs wherever frequency or handler changes, and the configuration changes only in TRACKING, where the
multiplier of ARM does not depend on it. -/
theorem stepKeepsSequencerInvariant : Obligations.StepKeepsSequencerInvariant :=
  fun _ _ hm h e => (modeSequencerInv_carried.kept.of_step ⟨hm, h⟩ e).2

/-! ### The driver's configuration -/

theorem configInv_carried : Carried ConfigInv where
  plain _ _ _ _ _ _ _ _ _ _ _ _ _ _ _ _ _ h := h
  fault _ _ h := h
  gate _ h _ _ := h
  std _ _ _ _ _ _ h _ _ _ := h
  fast _ _ _ _ h _ _ _ := h
  reset _ _ h _ := h
  bldis _ _ _ h _ _ := h
  blen _ _ _ h _ _ := h
  blamt _ _ h _ _ := h
  freq s f u h e := by
    obtain ⟨_, _, _, _, _, _, _, rfl⟩ := arm_ok_frame e
    exact h
  param _ _ _ _ hv := fun _ => hv
  notReady _ _ _ := by simp [ConfigInv]
  ready _ _ hv := fun _ => hv
  tr1 _ h _ _ := h
  tr2 _ h _ := h
  tr4 _ h _ := h
  tr5 s t h _ _ e := by
    obtain ⟨_, _, _, _, _, _, _, _, _, rfl⟩ := arm_settled_frame e
    exact h
  tr6 _ h _ := h
  tr7 s t h _ _ e := by
    obtain ⟨_, _, _, _, _, _, _, rfl⟩ := arm_ok_frame e
    exact h
  tr8 _ h _ := h

/-- Settles O57: SETPARAM and DRVINIT, the only writers, check the configuration first. -/
theorem stepKeepsConfigInvariant : Obligations.StepKeepsConfigInvariant :=
  fun _ _ h e => configInv_carried.kept.of_step h e

/-! ### Model faults and parameters -/

/-- `t` has the parameters of `s` and every model fault of `s` (10_state.md R42, R49). -/
def FaultsCarriedOver (s t : State) : Prop :=
  t.params = s.params ∧ ∀ f, s.faults.has f = true → t.faults.has f = true

/-- Raising a fault adds that fault alone (10_state.md R49). -/
theorem has_insert (a : Faults) (f g : ModelFault) : (a.insert g).has f = (a.has f || decide (f = g)) := by
  cases f <;> cases g <;> simp [Faults.insert, Faults.has]

theorem faultsCarriedOver_carried (s₀ : State) : Carried (FaultsCarriedOver s₀) where
  plain _ _ _ _ _ _ _ _ _ _ _ _ _ _ _ _ _ h := h
  fault s g h := ⟨h.1, fun f hf => by simp [has_insert, h.2 f hf]⟩
  gate _ h _ _ := h
  std _ _ _ _ _ _ h _ _ _ := h
  fast _ _ _ _ h _ _ _ := h
  reset _ _ h _ := h
  bldis _ _ _ h _ _ := h
  blen _ _ _ h _ _ := h
  blamt _ _ h _ _ := h
  freq s f u h e := by
    obtain ⟨_, _, _, _, _, _, _, rfl⟩ := arm_ok_frame e
    exact h
  param _ _ h _ _ := h
  notReady _ h _ := h
  ready _ h _ := h
  tr1 _ h _ _ := h
  tr2 _ h _ := h
  tr4 _ h _ := h
  tr5 s t h _ _ e := by
    obtain ⟨_, _, _, _, _, _, _, _, _, rfl⟩ := arm_settled_frame e
    exact h
  tr6 _ h _ := h
  tr7 s t h _ _ e := by
    obtain ⟨_, _, _, _, _, _, _, rfl⟩ := arm_ok_frame e
    exact h
  tr8 _ h _ := h

/-- Settles O58: the one operation on the faults inserts, and no operation writes a parameter. -/
theorem faultsStayAndParamsAreFixed : Obligations.FaultsStayAndParamsAreFixed :=
  fun _ s _ e => (faultsCarriedOver_carried s).kept.of_slot ⟨rfl, fun _ hf => hf⟩ e

/-! ### Reset -/

theorem shadowOf_invalid (r : TmcReg) : shadowOf Shadows.invalid r = { value := 0#32, valid := false } := by
  cases r <;> rfl

/-- Settles O6: the reset state is written out in the model, field by field. -/
theorem resetLeavesTableValues : Obligations.ResetLeavesTableValues := by
  intro p
  simp [State.resetWith, shadowOf_invalid, pinLevel, pinDir, DriverStatus.clear]

/-- A frequency of 0 stops the timer (41_sequencer.md R140). -/
theorem classify_zero : classify 0#32 = .stop := by decide

theorem reset_sequencerInv (p : Params) : SequencerInv (State.resetWith p) := by
  have hc : classify (State.resetWith p).freqBits = .stop := classify_zero
  refine ⟨?_, ?_, ?_, nofun, fun _ => ?_, nofun, nofun⟩
  · rw [hc]; rfl
  · rw [hc]; rfl
  · unfold armedPeriod; rw [hc]; rfl
  · simp [State.resetWith, Sign.toInt, wordOfInt]

/-- Settles O7: at reset the axis tracks with the standard handler, a stopped timer, no backlash and no ready driver. -/
theorem resetMeetsInvariants : Obligations.ResetMeetsInvariants := by
  intro p
  have hmode : ModeInv (State.resetWith p) := by simp [ModeInv, State.resetWith]
  have hbacklash : BacklashInv (State.resetWith p) :=
    ⟨zero_word_nonneg, zero_word_nonneg, zero_word_nonneg, zero_word_nonneg⟩
  have hconfig : ConfigInv (State.resetWith p) := nofun
  exact ⟨⟨hmode, hbacklash, gateInv_of_tracking rfl, reset_sequencerInv p, hconfig⟩, rfl⟩

end Sys2Proof.Proofs
end

section
/-! PROOFS. The tick and the driver's state (10_state.md R52, 41_sequencer.md R156): a tick gives the same result, and the
same events, from any state that differs in what the driver holds and in the history. -/

namespace Sys2Proof.Proofs

open Sys2Proof Sys2Proof.Machine Sys2Proof.Safety Sys2Proof.Laws

/-- What a tick does not look at, but for the step ratio: the driver's registers and records, and the chip. -/
structure DriverSide where
  cfg : DriverConfig
  shadows : Shadows
  status : DriverStatus
  lastDrvStatus : Word
  lastSpiStatus : Byte
  pins : Pins
  slewHint : Bool
  driverReady : Bool
  oracle : Oracle

/-- The driver side of a state. -/
def driverSide (s : State) : DriverSide :=
  { cfg := s.cfg, shadows := s.shadows, status := s.status, lastDrvStatus := s.lastDrvStatus
    lastSpiStatus := s.lastSpiStatus, pins := s.pins, slewHint := s.slewHint, driverReady := s.driverReady
    oracle := s.oracle }

/-- `s` with another driver side and another history. -/
def withSide (s : State) (d : DriverSide) (h : List Event) : State :=
  { s with cfg := d.cfg, shadows := d.shadows, status := d.status, lastDrvStatus := d.lastDrvStatus
           lastSpiStatus := d.lastSpiStatus, pins := d.pins, slewHint := d.slewHint, driverReady := d.driverReady
           oracle := d.oracle, history := h }

/-- The two registers that give the step ratio agree (43_driver.md R196). -/
def SameRatio (d : DriverSide) (s : State) : Prop :=
  d.cfg.microsteps = s.cfg.microsteps ∧ d.cfg.microstepsSlewing = s.cfg.microstepsSlewing

theorem homeSteps_withSide {d : DriverSide} {s : State} (hr : SameRatio d s) (h : List Event) :
    homeSteps (withSide s d h) = homeSteps s := by
  obtain ⟨h1, h2⟩ := hr
  simp [homeSteps, homeStepsOf, withSide, h1, h2]

theorem gateOpen_withSide {d : DriverSide} {s : State} (hr : SameRatio d s) (h : List Event) :
    gateOpen (withSide s d h) = gateOpen s := by
  unfold gateOpen atBoundary
  rw [homeSteps_withSide hr]
  rfl

/-- The events of a tick: pulses and pins (41_sequencer.md R149). -/
abbrev TickEvents (evs : List Event) : Prop := ∀ e ∈ evs, isTxn e = false ∧ isResp e = false

theorem tickEvents_nil : TickEvents [] := by simp [TickEvents]

theorem tickEvents_pulse (d : Dir) : TickEvents [.pulse d] := by simp [TickEvents, isTxn, isResp]

theorem tickEvents_stepEvents (s : State) (d : Dir) : TickEvents (stepEvents s d) := by
  unfold stepEvents
  split <;> simp [TickEvents, isTxn, isResp]

/-- From `s`, and from `s` with any driver side of the same ratio and any history, `f` gives the same result and appends
the same events, which are those of a tick. -/
def SideBlind {F : Type → Type} [Functor F] (f : State → F State) (s : State) : Prop :=
  ∃ evs, TickEvents evs ∧
    ∀ d h, SameRatio d s → f (withSide s d h) = (fun t => withSide t d (h ++ evs)) <$> f s

theorem autoAdvance_withSide (s : State) (a : Bool) (d : DriverSide) (h : List Event) :
    autoAdvance (withSide s d h) a = (autoAdvance s a).map (fun t => withSide t d h) := by
  unfold autoAdvance
  show (if (s.synchronized && a) = true then _ else _) = _
  split
  · show Option.map _ (chk (s.targetSteps.toInt + s.step.toInt)) = _
    rw [Option.map_map]
    rfl
  · rfl

/-- The standard move: the same step, and its events (41_sequencer.md R148). -/
theorem stdMove_sideBlind (s : State) : SideBlind stdMove s := by
  by_cases hneg : s.targetSteps.toInt < s.motorSteps.toInt
  · refine ⟨stepEvents s .rev, tickEvents_stepEvents s _, fun d h _ => ?_⟩
    by_cases hb : 0 < s.backlashSteps.toInt <;> simp only [stdMove, withSide, hneg, hb, if_true, if_false, pulseIn_eq]
    · rfl
    · cases chk (s.motorSteps.toInt - 1) <;> rfl
  by_cases hpos : s.motorSteps.toInt < s.targetSteps.toInt
  · refine ⟨stepEvents s .fwd, tickEvents_stepEvents s _, fun d h _ => ?_⟩
    have hamount : amountEff (withSide s d h) = amountEff s := rfl
    by_cases hb : s.backlashSteps.toInt < amountEff s <;>
      simp only [stdMove, hamount] <;> simp only [withSide, hneg, hpos, hb, if_true, if_false, pulseIn_eq]
    · rfl
    · cases chk (s.motorSteps.toInt + 1) <;> rfl
  · refine ⟨[], tickEvents_nil, fun d h _ => ?_⟩
    simp only [stdMove, withSide, hneg, hpos, if_false, List.append_nil]
    rfl

/-- The fast move: the same step, and its pulse (41_sequencer.md R152). -/
theorem fastMove_sideBlind (s : State) : SideBlind fastMove s := by
  by_cases hf : s.dir = .fwd ∧ homeSteps s ≤ s.targetSteps.toInt - s.motorSteps.toInt
  · refine ⟨[.pulse .fwd], tickEvents_pulse _, fun d h hr => ?_⟩
    simp only [fastMove, homeSteps_withSide hr]
    simp only [withSide, hf]
    cases chk (s.motorSteps.toInt + homeSteps s) <;> rfl
  by_cases hb : s.dir = .rev ∧ homeSteps s ≤ s.motorSteps.toInt - s.targetSteps.toInt
  · refine ⟨[.pulse .rev], tickEvents_pulse _, fun d h hr => ?_⟩
    simp only [fastMove, homeSteps_withSide hr]
    simp only [withSide, hb]
    cases chk (s.motorSteps.toInt - homeSteps s) <;> rfl
  · refine ⟨[], tickEvents_nil, fun d h hr => ?_⟩
    simp only [fastMove, homeSteps_withSide hr]
    simp only [withSide, hf, hb, if_false, List.append_nil]
    rfl

theorem consumeRearm_withSide (s : State) (d : DriverSide) (h : List Event) :
    consumeRearm (withSide s d h) = withSide (consumeRearm s) d h := by
  rw [consumeRearm_eq, consumeRearm_eq]
  rfl

/-- The advance of the target leaves the ratio alone. -/
theorem autoAdvance_cfg {s u : State} {a : Bool} (h : autoAdvance s a = some u) : u.cfg = s.cfg := by
  rcases autoAdvance_eq_some h with ⟨-, -, -, rfl⟩ | ⟨-, rfl⟩ <;> rfl

/-- The advance of the target and then the move of either handler. -/
theorem motion_sideBlind {move : State → Option State} (hmove : ∀ s, SideBlind move s) (a : Bool) (s : State) :
    SideBlind (fun s => (autoAdvance s a).bind move) s := by
  cases hu : autoAdvance s a with
  | none => exact ⟨[], tickEvents_nil, fun d h _ => by simp [autoAdvance_withSide, hu]⟩
  | some u =>
    obtain ⟨evs, hevs, hm⟩ := hmove u
    refine ⟨evs, hevs, fun d h hr => ?_⟩
    have hru : SameRatio d u := by
      unfold SameRatio
      rw [autoAdvance_cfg hu]
      exact hr
    simp [autoAdvance_withSide, hu, hm d h hru]

/-- The standard handler: the gate, an idle tick, or a motion (41_sequencer.md R148). -/
theorem stdTick_sideBlind (s : State) : SideBlind stdTick s := by
  obtain ⟨evs, hevs, hm⟩ := motion_sideBlind stdMove_sideBlind (!inBacklash s) s
  by_cases hg : gateOpen s = true
  · refine ⟨[], tickEvents_nil, fun d h hr => ?_⟩
    simp only [stdTick, gateOpen_withSide hr, hg, if_true, List.append_nil]
    rfl
  by_cases hi : (!(trackingModes s.modeState && s.enabled)) = true
  · refine ⟨[], tickEvents_nil, fun d h hr => ?_⟩
    simp only [stdTick, gateOpen_withSide hr, hg, List.append_nil]
    simp only [withSide, hi]
    rfl
  · refine ⟨evs, hevs, fun d h hr => ?_⟩
    have hin : inBacklash (withSide s d h) = inBacklash s := rfl
    have hmode : (withSide s d h).modeState = s.modeState := rfl
    have hen : (withSide s d h).enabled = s.enabled := rfl
    simp only [stdTick, gateOpen_withSide hr, hg, hin, hm d h hr, hmode, hen, hi]
    cases (autoAdvance s (!inBacklash s)).bind stdMove with
    | none => rfl
    | some t => exact congrArg Except.ok (consumeRearm_withSide t d _)

/-- The fast handler: an idle tick, or a motion (41_sequencer.md R152). -/
theorem fastTick_sideBlind (s : State) : SideBlind fastTick s := by
  obtain ⟨evs, hevs, hm⟩ := motion_sideBlind fastMove_sideBlind true s
  by_cases hi : (!(s.modeState == .slewing && s.enabled)) = true
  · refine ⟨[], tickEvents_nil, fun d h hr => ?_⟩
    simp only [fastTick, List.append_nil]
    simp only [withSide, hi]
    rfl
  · refine ⟨evs, hevs, fun d h hr => ?_⟩
    have hmode : (withSide s d h).modeState = s.modeState := rfl
    have hen : (withSide s d h).enabled = s.enabled := rfl
    simp only [fastTick, hm d h hr, hmode, hen, hi]
    cases (autoAdvance s true).bind fastMove with
    | none => rfl
    | some t => exact congrArg Except.ok (consumeRearm_withSide t d _)

theorem runHandler_sideBlind (s : State) : SideBlind runHandler s := by
  cases hh : s.handler with
  | standard =>
    obtain ⟨evs, hevs, h⟩ := stdTick_sideBlind s
    refine ⟨evs, hevs, fun d l hr => ?_⟩
    have hh' : (withSide s d l).handler = .standard := hh
    simp only [runHandler, hh, hh', h d l hr]
  | fast =>
    obtain ⟨evs, hevs, h⟩ := fastTick_sideBlind s
    refine ⟨evs, hevs, fun d l hr => ?_⟩
    have hh' : (withSide s d l).handler = .fast := hh
    simp only [runHandler, hh, hh', h d l hr]

/-- A tick from a state with another driver side of the same ratio, and with any history, is the same tick. -/
theorem takeTick_withSide (s : State) :
    ∃ evs, TickEvents evs ∧
      ∀ d h, SameRatio d s → takeTick (withSide s d h) = withSide (takeTick s) d (h ++ evs) := by
  by_cases he : tickEnabled s = true
  · obtain ⟨evs, hevs, hrun⟩ := runHandler_sideBlind (spendGrace s)
    have hspend : ∀ d h, spendGrace (withSide s d h) = withSide (spendGrace s) d h := by
      intro d h
      rw [spendGrace_eq, spendGrace_eq]
      rfl
    have hcfg : (spendGrace s).cfg = s.cfg := by rw [spendGrace_eq]
    have hside : ∀ d h, SameRatio d s →
        runHandler (spendGrace (withSide s d h)) = (fun t => withSide t d (h ++ evs)) <$> runHandler (spendGrace s) := by
      intro d h hr
      rw [hspend, hrun d h (by unfold SameRatio; rw [hcfg]; exact hr)]
    have hen : ∀ d h, tickEnabled (withSide s d h) = tickEnabled s := fun _ _ => rfl
    cases ht : runHandler (spendGrace s) with
    | ok t =>
      refine ⟨evs, hevs, fun d h hr => ?_⟩
      simp only [takeTick, hen, he, hside d h hr, ht]
      rfl
    | error f =>
      refine ⟨[], tickEvents_nil, fun d h hr => ?_⟩
      simp only [takeTick, hen, he, hside d h hr, ht, List.append_nil]
      rfl
  · refine ⟨[], tickEvents_nil, fun d h _ => ?_⟩
    have he' : ¬tickEnabled (withSide s d h) = true := he
    rw [takeTick, if_neg he', takeTick, if_neg he, List.append_nil]

/-- A tick event that T takes is `takeTick`; any other changes nothing. -/
theorem exec_tick_eq {i : Instr} (hi : i = .evTickStd ∨ i = .evTickFast) :
    ∃ hd : Handler, ∀ s, exec i s = .next (if s.handler = hd then takeTick s else s) := by
  rcases hi with rfl | rfl
  · exact ⟨.standard, fun _ => rfl⟩
  · exact ⟨.fast, fun _ => rfl⟩

/-- Settles O29: a tick is the same tick whatever the driver's side of the state. -/
theorem ticksLeaveDriverStateAlone : Obligations.TicksLeaveDriverStateAlone := by
  intro i s t hi e
  obtain ⟨hd, hexec⟩ := exec_tick_eq hi
  obtain ⟨evs, hevs, hside⟩ := takeTick_withSide s
  rw [hexec] at e
  by_cases hh : s.handler = hd
  · rw [if_pos hh] at e
    cases e
    have hhist : (takeTick s).history = s.history ++ evs :=
      congrArg State.history (hside (driverSide s) s.history ⟨rfl, rfl⟩)
    refine ⟨takeTick_onlyTickState s, ⟨evs, hhist, hevs⟩, ?_⟩
    intro c sh st dd b pn hint ready o hc1 hc2
    have htick := hside ⟨c, sh, st, dd, b, pn, hint, ready, o⟩ s.history ⟨hc1, hc2⟩
    rw [← hhist] at htick
    rw [hexec, if_pos hh]
    exact congrArg _ htick
  · rw [if_neg hh] at e
    cases e
    refine ⟨rfl, ⟨[], (List.append_nil _).symm, tickEvents_nil⟩, ?_⟩
    intro c sh st dd b pn hint ready o _ _
    rw [hexec, if_neg hh]

end Sys2Proof.Proofs
end

section
/-! PROOFS. The history (10_state.md R50): every operation appends the same events, and otherwise leaves the same state,
whatever the history before it. `Appends f s` says so of one operation at one state; it is put together along the
definitions of the operations. -/

namespace Sys2Proof.Proofs

open Sys2Proof Sys2Proof.Machine Sys2Proof.Safety Sys2Proof.Laws

/-- `s` with another history. -/
def withHistory (s : State) (h : List Event) : State := { s with history := h }

/-- From `s`, and from `s` with any other history, `f` appends the same events and leaves the same state. -/
def Appends (f : State → State) (s : State) : Prop :=
  ∃ evs, ∀ h, f (withHistory s h) = withHistory (f s) (h ++ evs)

/-- The operation appends, to its own history too. -/
theorem Appends.history {f : State → State} {s : State} (h : Appends f s) :
    ∃ evs, (f s).history = s.history ++ evs ∧ ∀ h, f (withHistory s h) = withHistory (f s) (h ++ evs) := by
  obtain ⟨evs, he⟩ := h
  exact ⟨evs, congrArg State.history (he s.history), he⟩

/-- An operation that neither reads nor writes the history. -/
theorem Appends.of_silent {f : State → State} {s : State} (h : ∀ l, f (withHistory s l) = withHistory (f s) l) :
    Appends f s := ⟨[], fun l => by rw [h, List.append_nil]⟩

theorem Appends.comp {f g : State → State} {s : State} (hg : Appends g (f s)) (hf : Appends f s) :
    Appends (fun s => g (f s)) s := by
  obtain ⟨e₁, h₁⟩ := hf
  obtain ⟨e₂, h₂⟩ := hg
  exact ⟨e₁ ++ e₂, fun h => by simp only [h₁, h₂, List.append_assoc]⟩

/-- A choice that does not read the history. -/
theorem Appends.ite {f g : State → State} {c : State → Prop} [DecidablePred c] {s : State}
    (hc : ∀ l, c (withHistory s l) ↔ c s) (hf : c s → Appends f s) (hg : ¬c s → Appends g s) :
    Appends (fun s => if c s then f s else g s) s := by
  by_cases h : c s
  · obtain ⟨evs, he⟩ := hf h
    exact ⟨evs, fun l => by simp only [hc, h, if_true, he]⟩
  · obtain ⟨evs, he⟩ := hg h
    exact ⟨evs, fun l => by simp only [hc, h, if_false, he]⟩

/-- An operation that is another one at `s`, whatever the history. -/
theorem Appends.congr {f g : State → State} {s : State} (h : ∀ l, f (withHistory s l) = g (withHistory s l))
    (hg : Appends g s) : Appends f s := by
  obtain ⟨evs, he⟩ := hg
  refine ⟨evs, fun l => ?_⟩
  have hs : f s = g s := h s.history
  rw [h, he, hs]

/-! ### Ticks -/

theorem takeTick_appends (s : State) : Appends takeTick s := by
  obtain ⟨evs, -, hside⟩ := takeTick_withSide s
  refine ⟨evs, fun h => ?_⟩
  have htick : takeTick (withHistory s h) = withSide (takeTick s) (driverSide s) (h ++ evs) :=
    hside (driverSide s) h ⟨rfl, rfl⟩
  rw [htick, takeTick_onlyTickState s]
  rfl

theorem runTicks_appends (n : Nat) (s : State) : Appends (runTicks n) s := by
  induction n generalizing s with
  | zero => exact .of_silent fun _ => rfl
  | succ n ih => exact (ih (takeTick s)).comp (takeTick_appends s)

theorem preemptPoint_appends (s : State) : Appends preemptPoint s := by
  cases hp : s.preempt with
  | nil =>
    refine .of_silent fun l => ?_
    rw [preemptPoint_of_nil hp, preemptPoint_of_nil (s := withHistory s l) hp]
  | cons n rest =>
    have hcons : ∀ l, preemptPoint (withHistory s l) = runTicks n { withHistory s l with preempt := rest } := by
      intro l
      have hp' : (withHistory s l).preempt = n :: rest := hp
      unfold preemptPoint
      rw [hp']
    exact .congr hcons ((runTicks_appends n { s with preempt := rest }).comp (f := fun s => { s with preempt := rest })
      (.of_silent fun _ => rfl))

/-! ### Pins and transactions -/

theorem emit_appends (s : State) (e : Event) : Appends (emit · e) s :=
  ⟨[e], fun _ => rfl⟩

theorem setPin_appends (s : State) (p : Pin) (l : Level) : Appends (setPin · p l) s := by
  have hlevel : ∀ h, pinLevel (withHistory s h) p = pinLevel s p := fun h => by cases p <;> rfl
  refine .ite (fun h => by rw [hlevel]) (fun _ => .of_silent fun _ => rfl) fun _ => ?_
  exact (emit_appends _ _).comp (f := (storePin · p l)) (.of_silent fun h => by cases p <;> rfl)

theorem drivePin_appends (s : State) (p : Pin) (l : Level) : Appends (drivePin · p l) s := by
  have hlevel : ∀ h, pinLevel (withHistory s h) p = pinLevel s p := fun h => by cases p <;> rfl
  exact .ite (fun h => by rw [hlevel]) (fun _ => .of_silent fun _ => rfl)
    fun _ => (setPin_appends _ p l).comp (preemptPoint_appends s)

/-- A transaction appends its event, and its reply does not depend on the history. -/
theorem spiTxn_appends (s : State) (out : BitVec 40) :
    ∃ evs, ∀ h, spiTxn (withHistory s h) out = ((spiTxn s out).1, withHistory (spiTxn s out).2 (h ++ evs)) :=
  ⟨[.txn (.spi out (nextSpi s.oracle).1)], fun _ => rfl⟩

theorem uartReadTxn_appends (s : State) (out : List Byte) :
    ∃ evs, ∀ h, uartReadTxn (withHistory s h) out =
      ((uartReadTxn s out).1, withHistory (uartReadTxn s out).2 (h ++ evs)) :=
  ⟨[.txn (.uart out (collectReply s.params.uartSingleWire out (nextUart s.oracle).1))], fun _ => rfl⟩

theorem sendRegister_appends (s : State) (r : TmcReg) (v : Word) : Appends (sendRegister · r v) s := by
  cases hc : s.params.model.cls with
  | generic => exact .congr (g := id) (fun l => by simp [sendRegister, withHistory, hc]) (.of_silent fun _ => rfl)
  | tmcSpi =>
    obtain ⟨evs, h⟩ := spiTxn_appends s (spiWriteFrame s.params r v)
    exact .congr (g := fun t => (spiTxn t (spiWriteFrame s.params r v)).2)
      (fun l => by simp [sendRegister, withHistory, hc]) ⟨evs, fun l => congrArg Prod.snd (h l)⟩
  | tmcUart =>
    exact .congr (fun l => by simp [sendRegister, withHistory, hc, uartWriteTxn])
      (emit_appends s (.txn (.uart (uartWrite s.params r v) none)))

theorem regWrite_appends (s : State) (r : TmcReg) (v : Word) : Appends (regWrite · r v) s := by
  refine .ite (fun _ => Iff.rfl) (fun _ => .of_silent fun _ => rfl) fun _ => ?_
  exact Appends.comp (g := fun t => { t with shadows := setShadow t.shadows r v }) (.of_silent fun _ => rfl)
    ((sendRegister_appends _ r v).comp (preemptPoint_appends s))

/-- A register read over SPI gives the same reply whatever the history. -/
theorem regReadSpi_appends (s : State) (r : TmcReg) :
    ∃ evs, ∀ h, regReadSpi (withHistory s h) r = ((regReadSpi s r).1, withHistory (regReadSpi s r).2 (h ++ evs)) := by
  obtain ⟨e₁, h₁⟩ := preemptPoint_appends s
  obtain ⟨e₂, h₂⟩ := spiTxn_appends (preemptPoint s) (spiReadFrame s.params r)
  obtain ⟨e₃, h₃⟩ := preemptPoint_appends (spiTxn (preemptPoint s) (spiReadFrame s.params r)).2
  obtain ⟨e₄, h₄⟩ := spiTxn_appends (preemptPoint (spiTxn (preemptPoint s) (spiReadFrame s.params r)).2)
    (spiReadFrame s.params r)
  refine ⟨e₁ ++ (e₂ ++ (e₃ ++ e₄)), fun h => ?_⟩
  have hp : (withHistory s h).params = s.params := rfl
  unfold regReadSpi pause
  rw [hp, h₁, h₂, h₃, h₄]
  simp only [List.append_assoc]

/-- A register read over the UART gives the same reply whatever the history. -/
theorem regReadUart_appends (s : State) (r : TmcReg) :
    ∃ evs, ∀ h, regReadUart (withHistory s h) r = ((regReadUart s r).1, withHistory (regReadUart s r).2 (h ++ evs)) := by
  obtain ⟨e₁, h₁⟩ := preemptPoint_appends s
  obtain ⟨e₂, h₂⟩ := uartReadTxn_appends (preemptPoint s) (uartReadReq s.params r)
  refine ⟨e₁ ++ e₂, fun h => ?_⟩
  have hp : (withHistory s h).params = s.params := rfl
  unfold regReadUart pause
  rw [h₁, hp, h₂, List.append_assoc]

/-! ### The driver's operations -/

/-- On a generic model the microstep code drives the M pins, where there are any (43_driver.md R206). -/
theorem setMicrostep_of_generic {s : State} (x : Phase) (hc : s.params.model.cls = .generic) :
    setMicrostep s x =
      if s.params.hasMPins then
        drivePin (drivePin (drivePin s .m0 (bitLevel (codeOf s x) 0)) .m1 (bitLevel (codeOf s x) 1)) .m2
          (bitLevel (codeOf s x) 2)
      else s := by
  simp only [setMicrostep, hc]
  rfl

/-- On a TMC model the currents and the microstep code are written to registers (43_driver.md R206). -/
theorem setMicrostep_of_link {s : State} (x : Phase) (hc : s.params.model.cls ≠ .generic) :
    setMicrostep s x =
      regWrite (regWrite s .iholdIrun (ihr s.params s.cfg x)) .chopconf (chopconf s.params.chopconfBase (codeOf s x)) := by
  unfold setMicrostep
  split
  · exact absurd ‹_› hc
  · rfl
  · rfl

theorem setMicrostep_appends (s : State) (x : Phase) : Appends (setMicrostep · x) s := by
  by_cases hc : s.params.model.cls = .generic
  · refine .congr (g := fun t => if t.params.hasMPins then
        drivePin (drivePin (drivePin t .m0 (bitLevel (codeOf s x) 0)) .m1 (bitLevel (codeOf s x) 1)) .m2
          (bitLevel (codeOf s x) 2)
      else t) (fun l => setMicrostep_of_generic (s := withHistory s l) x hc) ?_
    exact .ite (fun _ => Iff.rfl)
      (fun _ => (drivePin_appends _ .m2 _).comp ((drivePin_appends _ .m1 _).comp (drivePin_appends s .m0 _)))
      (fun _ => .of_silent fun _ => rfl)
  · exact .congr (g := fun t => regWrite (regWrite t .iholdIrun (ihr s.params s.cfg x)) .chopconf
        (chopconf s.params.chopconfBase (codeOf s x)))
      (fun l => setMicrostep_of_link (s := withHistory s l) x hc)
      ((regWrite_appends _ .chopconf _).comp (regWrite_appends s .iholdIrun _))

/-- The GCONF value of a decay mode on the block's link (44_tmc_codec.md R237, R246). -/
def gconfOf (p : Params) (d : Word) : Word := if p.model.cls = .tmcSpi then gconfSpi d else gconfUart p d

/-- On a generic model the decay mode drives the DECAY pin, where there is one (43_driver.md R208). -/
theorem setDecay_of_generic {s : State} (x : Phase) (hc : s.params.model.cls = .generic) :
    setDecay s x =
      if s.params.hasDecayPin then drivePin s .decay (decayLevelOf s.params.decayLevels (decOf s.cfg x)) else s := by
  simp only [setDecay, hc]

/-- On a TMC model the decay mode is written to GCONF (43_driver.md R208). -/
theorem setDecay_of_link {s : State} (x : Phase) (hc : s.params.model.cls ≠ .generic) :
    setDecay s x = regWrite s .gconf (gconfOf s.params (decOf s.cfg x)) := by
  unfold setDecay gconfOf
  split
  · exact absurd ‹_› hc
  · simp [*]
  · simp [*]

theorem setDecay_appends (s : State) (x : Phase) : Appends (setDecay · x) s := by
  by_cases hc : s.params.model.cls = .generic
  · refine .congr (g := fun t => if t.params.hasDecayPin then
        drivePin t .decay (decayLevelOf s.params.decayLevels (decOf s.cfg x)) else t)
      (fun l => setDecay_of_generic (s := withHistory s l) x hc) ?_
    exact .ite (fun _ => Iff.rfl) (fun _ => drivePin_appends s .decay _) (fun _ => .of_silent fun _ => rfl)
  · exact .congr (fun l => setDecay_of_link (s := withHistory s l) x hc)
      (regWrite_appends s .gconf (gconfOf s.params (decOf s.cfg x)))

/-- The setup of DRVINIT: the two mode operations, and between and after them the two fixed registers of a TMC model
(43_driver.md R202). -/
theorem driverSetup_eq (s : State) :
    driverSetup s =
      if s.params.model.cls = .generic then setDecay (setMicrostep s .track) .track
      else regWrite (setDecay (regWrite (setMicrostep s .track) .pwmconf (pwmconfValue s.params)) .track) .coolconf
        (coolconfValue s.params) := by
  unfold driverSetup
  split <;> simp [*]

theorem driverSetup_appends (s : State) : Appends driverSetup s := by
  refine .congr (g := fun t => if t.params.model.cls = .generic then setDecay (setMicrostep t .track) .track
      else regWrite (setDecay (regWrite (setMicrostep t .track) .pwmconf (pwmconfValue s.params)) .track) .coolconf
        (coolconfValue s.params)) (fun l => driverSetup_eq (withHistory s l)) ?_
  refine .ite (fun _ => Iff.rfl) (fun _ => (setDecay_appends _ .track).comp (setMicrostep_appends s .track)) fun _ => ?_
  exact (regWrite_appends _ .coolconf _).comp
    ((setDecay_appends _ .track).comp ((regWrite_appends _ .pwmconf _).comp (setMicrostep_appends s .track)))

/-- The status read, completed or in a model fault (43_driver.md R214). -/
theorem statusRead_appends (s : State) : Appends (fun s => orFault s (updateStatus s)) s := by
  have hp : ∀ l, (withHistory s l).params = s.params := fun _ => rfl
  cases hc : s.params.model.cls with
  | generic =>
    refine .of_silent fun l => ?_
    simp only [updateStatus, hp, hc, orFault, genericStatus]
    split <;> rfl
  | tmcSpi =>
    cases ha : regAddrOk s.params .drvStatus with
    | false => exact .of_silent fun l => by simp [updateStatus, hp, hc, ha, orFault]; rfl
    | true =>
      obtain ⟨evs, he⟩ := regReadSpi_appends s .drvStatus
      exact ⟨evs, fun l => by simp [updateStatus, hp, hc, ha, orFault, he]; rfl⟩
  | tmcUart =>
    cases ha : regAddrOk s.params .drvStatus with
    | false => exact .of_silent fun l => by simp [updateStatus, hp, hc, ha, orFault]; rfl
    | true =>
      obtain ⟨evs, he⟩ := regReadUart_appends s .drvStatus
      refine ⟨evs, fun l => ?_⟩
      simp only [updateStatus, hp, hc, ha, if_true, he]
      cases (regReadUart s .drvStatus).1 <;> rfl

/-! ### ARM and the mode poll -/

theorem arm_withHistory (s : State) (l : List Event) :
    arm (withHistory s l) = (fun t => withHistory t l) <$> arm s := by
  unfold arm
  have hf : (withHistory s l).freqBits = s.freqBits := rfl
  rw [hf]
  cases classify s.freqBits with
  | stop => simp only [armStep_eq]; rfl
  | run d n m =>
    have hp : (withHistory s l).params = s.params := rfl
    rw [hp]
    cases timerParamsOk s.params
    · rfl
    · simp only [armStep_eq]; rfl

theorem setDir_appends (s : State) (d : Dir) : Appends (setDir · d) s :=
  .ite (fun _ => Iff.rfl) (fun _ => .of_silent fun _ => rfl) fun _ => ⟨[.pin .dir (dirLevel s.params d)], fun _ => rfl⟩

/-- The direction of a sign, or `d` for none. -/
def dirOfSign (d : Dir) : Sign → Dir
  | .pos => .fwd
  | .neg => .rev
  | .zero => d

/-- The direction that `settleDir` sets: toward the target, else that of the frequency, else the present one
(42_mode_fsm.md R178). -/
def settledDir (s : State) : Dir :=
  dirOfSign (dirOfSign s.dir s.dirLatch) (signOf (s.targetSteps.toInt - s.motorSteps.toInt))

theorem settleDir_eq (s : State) : settleDir s = setDir s (settledDir s) := by
  unfold settleDir settledDir
  split
  · rename_i h; rw [h]; rfl
  · rename_i h; rw [h]; rfl
  · rename_i h
    rw [h]
    split
    · rename_i h; rw [h]; rfl
    · rename_i h; rw [h]; rfl
    · rename_i h; rw [h]; simp [setDir, dirOfSign]

theorem settleDir_appends (s : State) : Appends settleDir s :=
  .congr (fun l => settleDir_eq (withHistory s l)) (setDir_appends s (settledDir s))

theorem enterSlewReady_appends (s : State) : Appends enterSlewReady s := by
  obtain ⟨evs, hs⟩ := settleDir_appends s
  have harm : ∀ l, arm { settleDir (withHistory s l) with handler := .fast } =
      (fun t => withHistory t (l ++ evs)) <$> arm { settleDir s with handler := .fast } := by
    intro l
    rw [hs]
    exact arm_withHistory { settleDir s with handler := .fast } _
  cases ha : arm { settleDir s with handler := .fast } with
  | ok t => exact ⟨evs, fun l => by simp only [enterSlewReady, harm, ha]; rfl⟩
  | error f => exact .of_silent fun l => by simp only [enterSlewReady, harm, ha]; rfl

theorem enterTrackingReady_appends (s : State) : Appends enterTrackingReady s := by
  refine .of_silent fun l => ?_
  have harm : arm { withHistory s l with handler := .standard } =
      (fun t => withHistory t l) <$> arm { s with handler := .standard } :=
    arm_withHistory { s with handler := .standard } l
  unfold enterTrackingReady
  rw [harm]
  cases arm { s with handler := .standard } <;> rfl

theorem addFault_appends (s : State) (f : ModelFault) : Appends (addFault · f) s := .of_silent fun _ => rfl

theorem switchToSlewing_appends (s : State) : Appends switchToSlewing s := by
  refine .ite (fun _ => Iff.rfl) (fun _ => addFault_appends s _) fun _ => ?_
  refine .ite (fun _ => Iff.rfl) (fun _ => addFault_appends s _) fun _ => ?_
  exact (enterSlewReady_appends _).comp
    ((preemptPoint_appends _).comp ((setDecay_appends _ .slew).comp (setMicrostep_appends s .slew)))

theorem swapToStandard_appends (s : State) : Appends swapToStandard s := by
  refine .ite (fun _ => Iff.rfl) (fun _ => addFault_appends s _) fun _ => ?_
  refine .ite (fun _ => Iff.rfl) (fun _ => addFault_appends s _) fun _ => ?_
  exact (enterTrackingReady_appends _).comp (preemptPoint_appends s)

/-- A change of the mode registers alone. -/
theorem mode_appends (s : State) (m : ModeState) : Appends (fun s => { s with modeState := m }) s :=
  .of_silent fun _ => rfl

theorem switchToTracking_appends (s : State) : Appends switchToTracking s := by
  refine .ite (fun _ => Iff.rfl) (fun _ => addFault_appends s _) fun _ => ?_
  refine .ite (fun _ => Iff.rfl) (fun _ => addFault_appends s _) fun _ => ?_
  exact (mode_appends _ .tracking).comp
    ((preemptPoint_appends _).comp ((setDecay_appends _ .track).comp (setMicrostep_appends s .track)))

theorem pollTracking_appends (s : State) : Appends pollTracking s :=
  .ite (fun _ => Iff.rfl) (fun _ => (mode_appends _ .slewingRequest).comp (preemptPoint_appends s))
    fun _ => .of_silent fun _ => rfl

theorem pollSlewingRequest_appends (s : State) : Appends pollSlewingRequest s := by
  refine .ite (fun _ => Iff.rfl) (fun _ => .of_silent fun _ => rfl) fun _ => ?_
  exact Appends.comp (g := fun t => if t.modeState = .slewingRequest then { t with modeState := .tracking } else t)
    (.ite (fun _ => Iff.rfl) (fun _ => mode_appends _ _) fun _ => .of_silent fun _ => rfl) (preemptPoint_appends s)

theorem pollSlewingPause_appends (s : State) : Appends pollSlewingPause s :=
  .ite (fun _ => Iff.rfl) (fun _ => (switchToSlewing_appends _).comp (preemptPoint_appends s)) fun _ =>
    Appends.comp (g := fun t => { t with modeState := .tracking, modeReq := false }) (.of_silent fun _ => rfl)
      (preemptPoint_appends s)

theorem pollSlewing_appends (s : State) : Appends pollSlewing s :=
  .ite (fun _ => Iff.rfl) (fun _ => .of_silent fun _ => rfl) fun _ =>
    (swapToStandard_appends _).comp (preemptPoint_appends s)

theorem modePoll_appends (s : State) : Appends modePoll s := by
  have hmode : ∀ l, (withHistory s l).modeState = s.modeState := fun _ => rfl
  cases hm : s.modeState with
  | tracking => exact .congr (fun l => by simp only [modePoll, hmode, hm]) (pollTracking_appends s)
  | slewingRequest => exact .congr (fun l => by simp only [modePoll, hmode, hm]) (pollSlewingRequest_appends s)
  | slewingPause => exact .congr (fun l => by simp only [modePoll, hmode, hm]) (pollSlewingPause_appends s)
  | slewingReady =>
    exact .congr (g := pollSlewingReady) (fun l => by simp only [modePoll, hmode, hm])
      ((mode_appends _ .slewing).comp (preemptPoint_appends s))
  | slewing => exact .congr (fun l => by simp only [modePoll, hmode, hm]) (pollSlewing_appends s)
  | trackingReady =>
    exact .congr (g := pollTrackingReady) (fun l => by simp only [modePoll, hmode, hm])
      ((switchToTracking_appends _).comp (preemptPoint_appends s))

/-! ### The bodies of host commands -/

/-- The end of a body, with another history in the state it leaves. -/
def answerWithHistory (a : Answer) (h : List Event) : Answer :=
  match a with
  | .done t v => .done (withHistory t h) v
  | .raise r => .raise r
  | .failed t r => .failed (withHistory t h) r
  | .modelFault f => .modelFault f

/-- A body ends in the same way from `s` with any history, and appends the same events. -/
def BodyAppends (body : State → Answer) (s : State) : Prop :=
  ∃ evs, ∀ h, body (withHistory s h) = answerWithHistory (body s) (h ++ evs)

namespace BodyAppends

variable {s : State}

theorem raise (r : Result) : BodyAppends (fun _ => .raise r) s := ⟨[], fun _ => rfl⟩

theorem modelFault (f : ModelFault) : BodyAppends (fun _ => .modelFault f) s := ⟨[], fun _ => rfl⟩

theorem done {f : State → State} {v : State → Word} (hf : Appends f s) (hv : ∀ l, v (withHistory s l) = v s) :
    BodyAppends (fun s => .done (f s) (v s)) s := by
  obtain ⟨evs, he⟩ := hf
  exact ⟨evs, fun h => by simp only [he, hv]; rfl⟩

theorem failed {f : State → State} (hf : Appends f s) (r : Result) : BodyAppends (fun s => .failed (f s) r) s := by
  obtain ⟨evs, he⟩ := hf
  exact ⟨evs, fun h => by simp only [he]; rfl⟩

/-- A reader: nothing is written, and the value does not come from the history. -/
theorem read {v : State → Word} (hv : ∀ l, v (withHistory s l) = v s) : BodyAppends (fun s => .done s (v s)) s :=
  done (.of_silent fun _ => rfl) hv

theorem valueChecked {v : State → Int} (hv : ∀ l, v (withHistory s l) = v s) :
    BodyAppends (fun s => Machine.valueChecked s (v s)) s := by
  refine ⟨[], fun l => ?_⟩
  simp only [Machine.valueChecked, hv, List.append_nil]
  cases chk (v s) <;> rfl

theorem storeChecked {v : State → Int} {k : State → Word → State} (hv : ∀ l, v (withHistory s l) = v s)
    (hk : ∀ l w, k (withHistory s l) w = withHistory (k s w) l) :
    BodyAppends (fun s => Machine.storeChecked (v s) (k s)) s := by
  refine ⟨[], fun l => ?_⟩
  simp only [Machine.storeChecked, hv, hk, List.append_nil]
  cases chk (v s) <;> rfl

/-- A choice that does not read the history. -/
theorem ite {f g : State → Answer} {c : State → Prop} [DecidablePred c] (hc : ∀ l, c (withHistory s l) ↔ c s)
    (hf : c s → BodyAppends f s) (hg : ¬c s → BodyAppends g s) : BodyAppends (fun s => if c s then f s else g s) s := by
  by_cases h : c s
  · obtain ⟨evs, he⟩ := hf h
    exact ⟨evs, fun l => by simp only [hc, h, if_true, he]⟩
  · obtain ⟨evs, he⟩ := hg h
    exact ⟨evs, fun l => by simp only [hc, h, if_false, he]⟩

theorem congr {f g : State → Answer} (h : ∀ l, f (withHistory s l) = g (withHistory s l)) (hg : BodyAppends g s) :
    BodyAppends f s := by
  obtain ⟨evs, he⟩ := hg
  refine ⟨evs, fun l => ?_⟩
  have hs : f s = g s := h s.history
  rw [h, he, hs]

end BodyAppends

/-- The frame of a host command appends what the body appends, and then the response. -/
theorem hostCommand_appends {body : State → Answer} {s : State} (op : Byte) (h : BodyAppends body (beginMainLoop s)) :
    Appends (fun s => answerCommand (beginMainLoop s) op (body (beginMainLoop s))) s := by
  obtain ⟨evs, he⟩ := h
  have hb : ∀ l, beginMainLoop (withHistory s l) = withHistory (beginMainLoop s) l := fun _ => rfl
  cases ha : body (beginMainLoop s) with
  | done t v => exact ⟨evs ++ [.resp op .ok v], fun l => by simp only [hb, he, ha, ← List.append_assoc]; rfl⟩
  | raise r => exact ⟨[.resp op r 0#32], fun l => by simp only [hb, he, ha]; rfl⟩
  | failed t r => exact ⟨evs ++ [.resp op r 0#32], fun l => by simp only [hb, he, ha, ← List.append_assoc]; rfl⟩
  | modelFault f => exact ⟨[.resp op .fault 0#32], fun l => by simp only [hb, he, ha]; rfl⟩

/-- A move appends the same events from `s` with any history, and otherwise leaves the same state. -/
def MoveAppends (f : State → Host.Outcome State Fault Refusal) (s : State) : Prop :=
  ∀ t, f s = .next t →
    ∃ evs, t.history = s.history ++ evs ∧ ∀ h, f (withHistory s h) = .next (withHistory t (h ++ evs))

theorem MoveAppends.of_next {g : State → State} {s : State} (h : Appends g s) : MoveAppends (fun s => .next (g s)) s := by
  intro t e
  cases e
  obtain ⟨evs, hh, he⟩ := h.history
  exact ⟨evs, hh, fun l => congrArg _ (he l)⟩

/-- A host command, by its body. -/
theorem MoveAppends.of_host {f : State → Host.Outcome State Fault Refusal} {op : Byte} {body : State → Answer} {s : State}
    (hf : ∀ s, f s = hostCommand s op body) (h : BodyAppends body (beginMainLoop s)) : MoveAppends f s := by
  rw [show f = fun s => hostCommand s op body from funext hf]
  exact .of_next (hostCommand_appends op h)

end Sys2Proof.Proofs
end

section
/-! PROOFS. The history over every instruction and every move (10_state.md R50). -/

namespace Sys2Proof.Proofs

open Sys2Proof Sys2Proof.Machine Sys2Proof.Safety Sys2Proof.Laws

/-- A body that causes no event. -/
theorem BodyAppends.of_silent {body : State → Answer} {s : State}
    (h : ∀ l, body (withHistory s l) = answerWithHistory (body s) l) : BodyAppends body s :=
  ⟨[], fun l => by rw [h, List.append_nil]⟩

/-! ### The bodies that check more than one thing -/

theorem execBlDisable_moveAppends (s : State) : MoveAppends execBlDisable s := by
  refine .of_host (fun _ => rfl) ?_
  refine .ite (fun _ => Iff.rfl) (fun _ => .raise _) fun _ => ?_
  refine .ite (fun _ => Iff.rfl) (fun _ => .raise _) fun _ => ?_
  refine .of_silent fun l => ?_
  simp only [withHistory]
  cases chk ((beginMainLoop s).motorSteps.toInt + (beginMainLoop s).backlashSteps.toInt) <;>
    cases chk ((beginMainLoop s).targetSteps.toInt + (beginMainLoop s).backlashSteps.toInt) <;> rfl

theorem execBlEnable_moveAppends (s : State) : MoveAppends execBlEnable s := by
  refine .of_host (fun _ => rfl) ?_
  refine .ite (fun _ => Iff.rfl) (fun _ => .raise _) fun _ => ?_
  refine .ite (fun _ => Iff.rfl) (fun _ => .raise _) fun _ => ?_
  refine .of_silent fun l => ?_
  have hr : restoredBacklash (withHistory (beginMainLoop s) l) = restoredBacklash (beginMainLoop s) := rfl
  simp only [hr]
  simp only [withHistory]
  cases chk ((beginMainLoop s).motorSteps.toInt - restoredBacklash (beginMainLoop s)) <;>
    cases chk ((beginMainLoop s).targetSteps.toInt - restoredBacklash (beginMainLoop s)) <;> rfl

theorem execSetFreq_moveAppends (f : Word) (s : State) : MoveAppends (execSetFreq f) s := by
  refine .of_host (fun _ => rfl) (.of_silent fun l => ?_)
  have harm := arm_withHistory { beginMainLoop s with freqBits := acceptedFreq f } l
  have hw : withHistory { beginMainLoop s with freqBits := acceptedFreq f } l =
      { withHistory (beginMainLoop s) l with freqBits := acceptedFreq f } := rfl
  rw [← hw, harm]
  cases arm { beginMainLoop s with freqBits := acceptedFreq f } <;> rfl

theorem power_appends (s : State) (on : Bool) : Appends (power · on) s :=
  .congr (fun _ => rfl) (setPin_appends s .en (if on then s.params.enActiveLevel else s.params.enActiveLevel.other))

theorem execSetEnable_moveAppends (on : Bool) (s : State) : MoveAppends (execSetEnable on) s := by
  refine .of_host (fun _ => rfl) ?_
  have hset : ∀ t b, Appends (fun s => { s with enabled := b }) t := fun _ _ => .of_silent fun _ => rfl
  refine .ite (fun _ => Iff.rfl) (fun _ => .raise _) fun _ => ?_
  refine .ite (fun _ => Iff.rfl) (fun _ => .done ?_ fun _ => rfl) (fun _ => .done ?_ fun _ => rfl)
  · exact (hset _ true).comp ((preemptPoint_appends _).comp (power_appends _ true))
  · exact (power_appends _ false).comp ((preemptPoint_appends _).comp (hset _ false))

theorem armDriver_appends (s : State) : Appends armDriver s := by
  refine .congr (g := fun t => power { preemptPoint t with driverReady := true } s.enabled) (fun _ => rfl) ?_
  exact (power_appends _ _).comp (f := fun t => { preemptPoint t with driverReady := true })
    (Appends.comp (g := fun t => { t with driverReady := true }) (.of_silent fun _ => rfl) (preemptPoint_appends s))

theorem execDrvInit_moveAppends (s : State) : MoveAppends execDrvInit s := by
  refine .of_host (fun _ => rfl) ?_
  refine .ite (fun _ => Iff.rfl) (fun _ => .raise _) fun _ => ?_
  cases hv : validateConfig (beginMainLoop s).params (beginMainLoop s).cfg with
  | refuse r =>
    exact .congr (fun l => by simp only [withHistory, hv]) (.failed (f := fun t => { t with driverReady := false })
      (.of_silent fun _ => rfl) r)
  | unmodelled => exact .congr (fun l => by simp only [withHistory, hv]) (.modelFault .unmodelled)
  | ok =>
    refine .congr (g := fun t => if driverSetupBad { t with shadows := invalidateShadows t.shadows } then
        .modelFault .unmodelled
      else .done (armDriver (driverSetup { t with shadows := invalidateShadows t.shadows })) 0#32)
      (fun l => by simp only [withHistory, hv]) ?_
    refine .ite (fun _ => Iff.rfl) (fun _ => .modelFault _) fun _ => .done ?_ fun _ => rfl
    exact (armDriver_appends _).comp ((driverSetup_appends _).comp
      (f := fun t => { t with shadows := invalidateShadows t.shadows }) (.of_silent fun _ => rfl))

/-- The end of a parameter command, by the verdict on the configuration (43_driver.md R199, R200). -/
theorem verdict_bodyAppends {c : State → DriverConfig} {f : State → State} {s : State}
    (hc : ∀ l, c (withHistory s l) = c s) (hf : Appends f s) :
    BodyAppends (fun t => match validateConfig t.params (c t) with
      | .refuse r => .raise r
      | .unmodelled => .modelFault .unmodelled
      | .ok => .done (f t) 0#32) s := by
  have hp : ∀ l, (withHistory s l).params = s.params := fun _ => rfl
  cases hv : validateConfig s.params (c s) with
  | refuse r => exact .congr (fun l => by simp only [hp, hc, hv]) (.raise r)
  | unmodelled => exact .congr (fun l => by simp only [hp, hc, hv]) (.modelFault .unmodelled)
  | ok => exact .congr (fun l => by simp only [hp, hc, hv]) (.done (v := fun _ => 0#32) hf fun _ => rfl)

theorem execValParam_moveAppends (p : BitVec 3) (v : Word) (s : State) : MoveAppends (execValParam p v) s := by
  refine .of_host (fun _ => rfl) ?_
  cases paramOfField p with
  | none => exact .raise _
  | some id => exact verdict_bodyAppends (fun _ => rfl) (.of_silent fun _ => rfl)

theorem execSetParam_moveAppends (p : BitVec 3) (v : Word) (s : State) : MoveAppends (execSetParam p v) s := by
  refine .of_host (fun _ => rfl) ?_
  cases paramOfField p with
  | none => exact .raise _
  | some id =>
    exact .ite (fun _ => Iff.rfl) (fun _ => .raise _)
      fun _ => verdict_bodyAppends (c := fun t => cfgSet t.cfg id v) (f := fun t => { t with cfg := cfgSet t.cfg id v })
        (fun _ => rfl) (.of_silent fun _ => rfl)

theorem execGetParam_moveAppends (p : BitVec 3) (s : State) : MoveAppends (execGetParam p) s := by
  refine .of_host (fun _ => rfl) ?_
  cases paramOfField p with
  | none => exact .raise _
  | some id => exact .read (v := fun t => cfgGet t.cfg id) fun _ => rfl

/-- A driver operation raised by itself: looked at first, and then done (60_exceptions.md R286). -/
theorem raised_moveAppends {f : State → State} {bad : State → Bool} {s : State} (hb : ∀ l, bad (withHistory s l) = bad s)
    (hf : Appends f s) : MoveAppends (fun s => .next (if bad s then addFault s .unmodelled else f s)) s :=
  .of_next (.ite (fun l => by rw [hb]) (fun _ => addFault_appends s _) fun _ => hf)

theorem tick_moveAppends (hd : Handler) (s : State) :
    MoveAppends (fun s => .next (if s.handler = hd then takeTick s else s)) s :=
  .of_next (.ite (fun _ => Iff.rfl) (fun _ => takeTick_appends s) fun _ => .of_silent fun _ => rfl)

theorem beginMainLoop_appends (s : State) : Appends beginMainLoop s := .of_silent fun _ => rfl

theorem execEvStatusPoll_moveAppends (s : State) : MoveAppends execEvStatusPoll s := by
  refine .of_next (.ite (fun _ => Iff.rfl) (fun _ => ?_) fun _ => beginMainLoop_appends s)
  exact (statusRead_appends (beginMainLoop s)).comp (beginMainLoop_appends s)

/-- Every instruction. -/
theorem exec_moveAppends (i : Instr) (s : State) : MoveAppends (exec i) s := by
  cases i with
  | resetPos v =>
    refine .of_host (f := execResetPos v) (fun _ => rfl) ?_
    exact .ite (fun _ => Iff.rfl) (fun _ => .raise _) fun _ => .done (.of_silent fun _ => rfl) fun _ => rfl
  | setInstr v =>
    refine .of_host (f := execSetInstr v) (fun _ => rfl) ?_
    exact .storeChecked (fun _ => rfl) fun _ _ => rfl
  | setInstrPark v m =>
    refine .of_host (f := execSetInstrPark v m) (fun _ => rfl) ?_
    exact .ite (fun _ => Iff.rfl) (fun _ => .raise _) fun _ => .storeChecked (fun _ => rfl) fun _ _ => rfl
  | setTarget v =>
    refine .of_host (f := execSetTarget v) (fun _ => rfl) ?_
    exact .storeChecked (fun _ => rfl) fun _ _ => rfl
  | setTargetPark v m =>
    refine .of_host (f := execSetTargetPark v m) (fun _ => rfl) ?_
    exact .ite (fun _ => Iff.rfl) (fun _ => .raise _) fun _ => .storeChecked (fun _ => rfl) fun _ _ => rfl
  | setSync on =>
    refine .of_host (f := execSetSync on) (fun _ => rfl) ?_
    exact .done (.of_silent fun _ => rfl) fun _ => rfl
  | blDisable => exact execBlDisable_moveAppends s
  | blEnable => exact execBlEnable_moveAppends s
  | setBlAmount a =>
    refine .of_host (f := execSetBlAmount a) (fun _ => rfl) ?_
    refine .ite (fun _ => Iff.rfl) (fun _ => .raise _) fun _ => ?_
    refine .ite (fun _ => Iff.rfl) (fun _ => .raise _) fun _ => ?_
    exact .ite (fun _ => Iff.rfl) (fun _ => .raise _) fun _ => .done (.of_silent fun _ => rfl) fun _ => rfl
  | markOrigin =>
    refine .of_host (f := execMarkOrigin) (fun _ => rfl) ?_
    exact .done (.of_silent fun _ => rfl) fun _ => rfl
  | getMotor =>
    refine .of_host (f := execGetMotor) (fun _ => rfl) ?_
    exact .read fun _ => rfl
  | getInstr =>
    refine .of_host (f := execGetInstr) (fun _ => rfl) ?_
    exact .valueChecked fun _ => rfl
  | getTarget =>
    refine .of_host (f := execGetTarget) (fun _ => rfl) ?_
    exact .valueChecked fun _ => rfl
  | getBl =>
    refine .of_host (f := execGetBl) (fun _ => rfl) ?_
    exact .read fun _ => rfl
  | getTDist =>
    refine .of_host (f := execGetTDist) (fun _ => rfl) ?_
    exact .valueChecked fun _ => rfl
  | getOtDist =>
    refine .of_host (f := execGetOtDist) (fun _ => rfl) ?_
    exact .valueChecked fun _ => rfl
  | getRampDir =>
    refine .of_host (f := execGetRampDir) (fun _ => rfl) ?_
    exact .read fun _ => rfl
  | setFreq f => exact execSetFreq_moveAppends f s
  | getFreq =>
    refine .of_host (f := execGetFreq) (fun _ => rfl) ?_
    exact .read fun _ => rfl
  | setEnable on => exact execSetEnable_moveAppends on s
  | setSlew on =>
    refine .of_host (f := execSetSlew on) (fun _ => rfl) ?_
    exact .done (.of_silent fun _ => rfl) fun _ => rfl
  | getMode =>
    refine .of_host (f := execGetMode) (fun _ => rfl) ?_
    exact .read fun _ => rfl
  | getSlewRatio =>
    refine .of_host (f := execGetSlewRatio) (fun _ => rfl) ?_
    exact .read fun _ => rfl
  | drvInit => exact execDrvInit_moveAppends s
  | valParam p v => exact execValParam_moveAppends p v s
  | setParam p v => exact execSetParam_moveAppends p v s
  | getParam p => exact execGetParam_moveAppends p s
  | getStatus =>
    refine .of_host (f := execGetStatus) (fun _ => rfl) ?_
    exact .read fun _ => rfl
  | calibrate =>
    refine .of_host (f := execCalibrate) (fun _ => rfl) ?_
    exact .raise _
  | drvMsTrack => exact raised_moveAppends (fun _ => rfl) (setMicrostep_appends s .track)
  | drvMsSlew => exact raised_moveAppends (fun _ => rfl) (setMicrostep_appends s .slew)
  | drvDecayTrack => exact raised_moveAppends (fun _ => rfl) (setDecay_appends s .track)
  | drvDecaySlew => exact raised_moveAppends (fun _ => rfl) (setDecay_appends s .slew)
  | drvUpdateStatus => exact .of_next (statusRead_appends s)
  | drvPower on => exact .of_next (power_appends s on)
  | evTickStd => exact tick_moveAppends .standard s
  | evTickFast => exact tick_moveAppends .fast s
  | evModePoll => exact .of_next ((modePoll_appends (beginMainLoop s)).comp (beginMainLoop_appends s))
  | evStatusPoll => exact execEvStatusPoll_moveAppends s

/-- Every move of the schedule. -/
theorem runSlot_moveAppends (slot : Slot) (s : State) : MoveAppends (runSlot slot) s := by
  cases slot with
  | host w =>
    cases hd : decodeHost w with
    | ok i =>
      have hi : runSlot (.host w) = exec i := by funext s; simp only [runSlot, runHostWord, hd]
      rw [hi]
      exact exec_moveAppends i s
    | error r =>
      have hi : runSlot (.host w) = illegalCommand w := by funext s; simp only [runSlot, runHostWord, hd]
      rw [hi]
      exact .of_host (fun _ => rfl) (.raise .illegal)
  | raised w =>
    cases hd : decodeRaised w with
    | ok i =>
      have hi : runSlot (.raised w) = exec i := by funext s; simp only [runSlot, runRaisedWord, hd]
      rw [hi]
      exact exec_moveAppends i s
    | error r =>
      intro t e
      simp [runSlot, runRaisedWord, hd] at e
  | tick => exact fun t e => exec_moveAppends (tickInstr s) s t e

/-- Settles O59, along the definitions of all operations. -/
theorem historyIsOnlyAppended : Obligations.HistoryIsOnlyAppended :=
  fun slot s t e => runSlot_moveAppends slot s t e

end Sys2Proof.Proofs
end

section
/-! PROOFS. Who writes the registers that one command alone may write (10_state.md R24 to R46): a table of the writers, and
that every instruction writes by the table. -/

namespace Sys2Proof.Proofs

open Sys2Proof Sys2Proof.Machine Sys2Proof.Safety Sys2Proof.Laws

/-- The registers with listed writers. -/
structure Registers where
  synchronized : Bool
  freqBits : Word
  enabled : Bool
  slewHint : Bool
  backlashAmountSteps : Word
  originSteps : Word
  indexSteps : Word
  backlashDisabled : Bool
  cfg : DriverConfig
  driverReady : Bool
  handler : Handler
  status : DriverStatus
  lastDrvStatus : Word
  lastSpiStatus : Byte
  shadows : Shadows

/-- The listed registers of a state. -/
def regs (s : State) : Registers :=
  { synchronized := s.synchronized, freqBits := s.freqBits, enabled := s.enabled, slewHint := s.slewHint
    backlashAmountSteps := s.backlashAmountSteps, originSteps := s.originSteps, indexSteps := s.indexSteps
    backlashDisabled := s.backlashDisabled, cfg := s.cfg, driverReady := s.driverReady, handler := s.handler
    status := s.status, lastDrvStatus := s.lastDrvStatus, lastSpiStatus := s.lastSpiStatus, shadows := s.shadows }

/-- The table of the writers: `r` with the registers that the instruction may write taken from `r'`. -/
def allowed (r r' : Registers) : Instr → Registers
  | .resetPos _ => { r with originSteps := r'.originSteps, indexSteps := r'.indexSteps }
  | .setInstr _ => { r with indexSteps := r'.indexSteps }
  | .setInstrPark _ _ => { r with indexSteps := r'.indexSteps }
  | .setSync _ => { r with synchronized := r'.synchronized }
  | .blDisable => { r with backlashDisabled := r'.backlashDisabled }
  | .blEnable => { r with backlashDisabled := r'.backlashDisabled }
  | .setBlAmount _ => { r with backlashAmountSteps := r'.backlashAmountSteps }
  | .markOrigin => { r with originSteps := r'.originSteps }
  | .setFreq _ => { r with freqBits := r'.freqBits }
  | .setEnable _ => { r with enabled := r'.enabled }
  | .setSlew _ => { r with slewHint := r'.slewHint }
  | .drvInit => { r with driverReady := r'.driverReady, shadows := r'.shadows }
  | .setParam _ _ => { r with cfg := r'.cfg }
  | .drvMsTrack => { r with shadows := r'.shadows }
  | .drvMsSlew => { r with shadows := r'.shadows }
  | .drvDecayTrack => { r with shadows := r'.shadows }
  | .drvDecaySlew => { r with shadows := r'.shadows }
  | .drvUpdateStatus =>
    { r with status := r'.status, lastDrvStatus := r'.lastDrvStatus, lastSpiStatus := r'.lastSpiStatus }
  | .evModePoll => { r with handler := r'.handler, shadows := r'.shadows }
  | .evStatusPoll =>
    { r with status := r'.status, lastDrvStatus := r'.lastDrvStatus, lastSpiStatus := r'.lastSpiStatus }
  | _ => r

/-- The table's writers of the position registers; every other row has the register of `r`. -/
theorem allowed_position_writers (i : Instr) (r r' : Registers) :
    ((allowed r r' i).synchronized ≠ r.synchronized → ∃ on, i = .setSync on) ∧
    ((allowed r r' i).backlashAmountSteps ≠ r.backlashAmountSteps → ∃ a, i = .setBlAmount a) ∧
    ((allowed r r' i).originSteps ≠ r.originSteps → i = .markOrigin ∨ ∃ v, i = .resetPos v) ∧
    ((allowed r r' i).indexSteps ≠ r.indexSteps →
      (∃ v, i = .setInstr v ∨ i = .resetPos v) ∨ ∃ v m, i = .setInstrPark v m) ∧
    ((allowed r r' i).backlashDisabled ≠ r.backlashDisabled → i = .blDisable ∨ i = .blEnable) := by
  refine ⟨?_, ?_, ?_, ?_, ?_⟩ <;> intro h <;> cases i
  case refine_1.setSync on => exact ⟨on, rfl⟩
  case refine_2.setBlAmount a => exact ⟨a, rfl⟩
  case refine_3.markOrigin => exact .inl rfl
  case refine_3.resetPos v => exact .inr ⟨v, rfl⟩
  case refine_4.setInstr v => exact .inl ⟨v, .inl rfl⟩
  case refine_4.resetPos v => exact .inl ⟨v, .inr rfl⟩
  case refine_4.setInstrPark v m => exact .inr ⟨v, m, rfl⟩
  case refine_5.blDisable => exact .inl rfl
  case refine_5.blEnable => exact .inr rfl
  all_goals exact absurd rfl h

/-- The table's writers of the registers of the sequencer and the mode switch. -/
theorem allowed_sequencer_writers (i : Instr) (r r' : Registers) :
    ((allowed r r' i).freqBits ≠ r.freqBits → ∃ f, i = .setFreq f) ∧
    ((allowed r r' i).enabled ≠ r.enabled → ∃ on, i = .setEnable on) ∧
    ((allowed r r' i).slewHint ≠ r.slewHint → ∃ on, i = .setSlew on) ∧
    ((allowed r r' i).handler ≠ r.handler → i = .evModePoll) := by
  refine ⟨?_, ?_, ?_, ?_⟩ <;> intro h <;> cases i
  case refine_1.setFreq f => exact ⟨f, rfl⟩
  case refine_2.setEnable on => exact ⟨on, rfl⟩
  case refine_3.setSlew on => exact ⟨on, rfl⟩
  case refine_4.evModePoll => rfl
  all_goals exact absurd rfl h

/-- The table's writers of the driver's configuration and status. -/
theorem allowed_driver_writers (i : Instr) (r r' : Registers) :
    ((allowed r r' i).cfg ≠ r.cfg → ∃ p v, i = .setParam p v) ∧
    ((allowed r r' i).driverReady ≠ r.driverReady → i = .drvInit) ∧
    ((allowed r r' i).status ≠ r.status ∨ (allowed r r' i).lastDrvStatus ≠ r.lastDrvStatus ∨
      (allowed r r' i).lastSpiStatus ≠ r.lastSpiStatus → i = .drvUpdateStatus ∨ i = .evStatusPoll) := by
  refine ⟨fun h => ?_, fun h => ?_, ?_⟩
  · cases i
    case setParam p v => exact ⟨p, v, rfl⟩
    all_goals exact absurd rfl h
  · cases i
    case drvInit => rfl
    all_goals exact absurd rfl h
  · rintro (h | h | h) <;> cases i
    case inl.drvUpdateStatus | inr.inl.drvUpdateStatus | inr.inr.drvUpdateStatus => exact .inl rfl
    case inl.evStatusPoll | inr.inl.evStatusPoll | inr.inr.evStatusPoll => exact .inr rfl
    all_goals exact absurd rfl h

/-- The table's writers of the shadows: the operations that write driver registers, and what raises them. -/
theorem allowed_shadow_writers (i : Instr) (r r' : Registers) (h : (allowed r r' i).shadows ≠ r.shadows) :
    i ∈ [Instr.drvInit, .evModePoll, .drvMsTrack, .drvMsSlew, .drvDecayTrack, .drvDecaySlew] := by
  cases i
  case drvInit | evModePoll | drvMsTrack | drvMsSlew | drvDecayTrack | drvDecaySlew => decide
  all_goals exact absurd rfl h

/-- From `s` to `t` the instruction writes by the table. -/
def Writes (i : Instr) (s t : State) : Prop := regs t = allowed (regs s) (regs t) i

theorem Writes.of_eq {i : Instr} {s t : State} (h : regs t = regs s) : Writes i s t := by
  unfold Writes
  rw [h]
  cases i <;> rfl

/-! ### The operations in between -/

@[simp] theorem regs_takeTick (s : State) : regs (takeTick s) = regs s := by
  rw [takeTick_onlyTickState s]
  rfl

@[simp] theorem regs_preemptPoint (s : State) : regs (preemptPoint s) = regs s :=
  preemptPoint_induct (P := fun t => regs t = regs s) (fun _ h => (regs_takeTick _).trans h) (fun _ _ h => h) s rfl

@[simp] theorem regs_power (s : State) (on : Bool) : regs (power s on) = regs s := by
  unfold power
  rw [setPin_en_eq]
  rfl

/-- A driver operation, and the ticks in between, write the shadows alone. -/
theorem regs_of_onlyDriverAndTicks {s t : State} (h : OnlyDriverAndTicks s t) :
    regs t = { regs s with shadows := t.shadows } := by
  rw [h]
  rfl

theorem regs_setMicrostep (s : State) (x : Phase) :
    regs (setMicrostep s x) = { regs s with shadows := (setMicrostep s x).shadows } :=
  regs_of_onlyDriverAndTicks ((stable_onlyDriverAndTicks s).setMicrostep x (onlyDriverAndTicks_refl s))

theorem regs_setDecay (s : State) (x : Phase) :
    regs (setDecay s x) = { regs s with shadows := (setDecay s x).shadows } :=
  regs_of_onlyDriverAndTicks ((stable_onlyDriverAndTicks s).setDecay x (onlyDriverAndTicks_refl s))

theorem regs_driverSetup (s : State) : regs (driverSetup s) = { regs s with shadows := (driverSetup s).shadows } :=
  regs_of_onlyDriverAndTicks ((stable_onlyDriverAndTicks s).driverSetup (onlyDriverAndTicks_refl s))

@[simp] theorem regs_spiTxn (s : State) (out : BitVec 40) : regs (spiTxn s out).2 = regs s := rfl

@[simp] theorem regs_uartReadTxn (s : State) (out : List Byte) : regs (uartReadTxn s out).2 = regs s := rfl

@[simp] theorem regs_regReadSpi (s : State) (r : TmcReg) : regs (regReadSpi s r).2 = regs s := by
  simp [regReadSpi, pause]

@[simp] theorem regs_regReadUart (s : State) (r : TmcReg) : regs (regReadUart s r).2 = regs s := by
  simp [regReadUart, pause]

/-- Between `s` and `t` the status registers alone differ. -/
def OnlyStatus (s t : State) : Prop :=
  regs t = { regs s with status := t.status, lastDrvStatus := t.lastDrvStatus, lastSpiStatus := t.lastSpiStatus }

/-- The status registers written over a state with the registers of `s`. -/
theorem onlyStatus_of_regs {s u : State} (h : regs u = regs s) (a : DriverStatus) (d : Word) (b : Byte) :
    OnlyStatus s { u with status := a, lastDrvStatus := d, lastSpiStatus := b } := by
  unfold OnlyStatus
  rw [← h]
  rfl

theorem statusRead_onlyStatus (s : State) : OnlyStatus s (orFault s (updateStatus s)) := by
  cases hc : s.params.model.cls with
  | generic =>
    simp only [updateStatus, hc, genericStatus]
    split <;> rfl
  | tmcSpi =>
    cases ha : regAddrOk s.params .drvStatus with
    | false => simp only [updateStatus, hc, ha]; rfl
    | true =>
      simp only [updateStatus, hc, ha, if_true]
      exact onlyStatus_of_regs (regs_regReadSpi s .drvStatus) _ _ _
  | tmcUart =>
    cases ha : regAddrOk s.params .drvStatus with
    | false => simp only [updateStatus, hc, ha]; rfl
    | true =>
      simp only [updateStatus, hc, ha, if_true]
      split
      · exact onlyStatus_of_regs (regs_regReadUart s .drvStatus) _ (regReadUart s .drvStatus).2.lastDrvStatus
          (regReadUart s .drvStatus).2.lastSpiStatus
      · exact onlyStatus_of_regs (regs_regReadUart s .drvStatus) _ _ (regReadUart s .drvStatus).2.lastSpiStatus

/-! ### The mode poll -/

/-- Between `s` and `t` the handler and the shadows alone differ. -/
def OnlyModeSwitch (s t : State) : Prop := regs t = { regs s with handler := t.handler, shadows := t.shadows }

theorem OnlyModeSwitch.of_eq {s t : State} (h : regs t = regs s) : OnlyModeSwitch s t := by
  unfold OnlyModeSwitch
  rw [← h]
  rfl

theorem OnlyModeSwitch.trans {s t u : State} (h : OnlyModeSwitch s t) (g : OnlyModeSwitch t u) : OnlyModeSwitch s u := by
  unfold OnlyModeSwitch at *
  rw [g, h]

/-- The driver operations of a mode switch, and the ticks around them. -/
theorem onlyModeSwitch_reconfigured (s : State) (x : Phase) :
    OnlyModeSwitch s (preemptPoint (setDecay (setMicrostep s x) x)) := by
  have h := regs_setDecay (setMicrostep s x) x
  rw [regs_setMicrostep, ← regs_preemptPoint] at h
  have hsh : (preemptPoint (setDecay (setMicrostep s x) x)).shadows = (setDecay (setMicrostep s x) x).shadows :=
    (preemptPoint_driverSame _).shadows
  have hh : (preemptPoint (setDecay (setMicrostep s x) x)).handler = s.handler := congrArg Registers.handler h
  unfold OnlyModeSwitch
  rw [h, hsh, hh]
  rfl

theorem onlyModeSwitch_enterSlewReady (s : State) : OnlyModeSwitch s (enterSlewReady s) := by
  unfold enterSlewReady
  split
  · rename_i t ht
    obtain ⟨_, _, _, _, _, _, _, _, _, rfl⟩ := arm_settled_frame ht
    rfl
  · rfl

theorem onlyModeSwitch_enterTrackingReady (s : State) : OnlyModeSwitch s (enterTrackingReady s) := by
  unfold enterTrackingReady
  split
  · rename_i t ht
    obtain ⟨_, _, _, _, _, _, _, rfl⟩ := arm_ok_frame ht
    rfl
  · rfl

theorem onlyModeSwitch_preemptPoint (s : State) : OnlyModeSwitch s (preemptPoint s) := .of_eq (regs_preemptPoint s)

theorem onlyModeSwitch_switchToSlewing (s : State) : OnlyModeSwitch s (switchToSlewing s) := by
  unfold switchToSlewing
  split
  · rfl
  · split
    · rfl
    · exact (onlyModeSwitch_reconfigured s .slew).trans (onlyModeSwitch_enterSlewReady _)

theorem onlyModeSwitch_swapToStandard (s : State) : OnlyModeSwitch s (swapToStandard s) := by
  unfold swapToStandard
  split
  · rfl
  · split
    · rfl
    · exact (onlyModeSwitch_preemptPoint s).trans (onlyModeSwitch_enterTrackingReady _)

theorem onlyModeSwitch_switchToTracking (s : State) : OnlyModeSwitch s (switchToTracking s) := by
  unfold switchToTracking
  split
  · rfl
  · split
    · rfl
    · exact onlyModeSwitch_reconfigured s .track

theorem onlyModeSwitch_modePoll (s : State) : OnlyModeSwitch s (modePoll s) := by
  unfold modePoll
  split
  · unfold pollTracking
    split
    · exact onlyModeSwitch_preemptPoint s
    · rfl
  · unfold pollSlewingRequest
    split
    · rfl
    · split
      · exact onlyModeSwitch_preemptPoint s
      · exact onlyModeSwitch_preemptPoint s
  · unfold pollSlewingPause
    split
    · exact (onlyModeSwitch_preemptPoint s).trans (onlyModeSwitch_switchToSlewing _)
    · exact onlyModeSwitch_preemptPoint s
  · exact onlyModeSwitch_preemptPoint s
  · unfold pollSlewing
    split
    · rfl
    · exact (onlyModeSwitch_preemptPoint s).trans (onlyModeSwitch_swapToStandard _)
  · exact (onlyModeSwitch_preemptPoint s).trans (onlyModeSwitch_switchToTracking _)

/-! ### The host commands -/

/-- What the state that a body leaves, if it leaves one, has in common with `s`. -/
def AnswerWrites (i : Instr) (s : State) : Answer → Prop
  | .done t _ => Writes i s t
  | .failed t _ => Writes i s t
  | .raise _ => True
  | .modelFault _ => True

theorem answerWrites_storeChecked {i : Instr} {s : State} {v : Int} {k : Word → State} (h : ∀ w, Writes i s (k w)) :
    AnswerWrites i s (storeChecked v k) := by
  unfold storeChecked
  split
  · exact h _
  · trivial

theorem answerWrites_valueChecked (i : Instr) (s : State) (v : Int) : AnswerWrites i s (valueChecked s v) := by
  unfold valueChecked
  split
  · exact Writes.of_eq rfl
  · trivial

/-- The frame of a host command writes what the body writes: its own parts are the grace tick and the response. -/
theorem hostCommand_writes {i : Instr} {s t : State} {op : Byte} {body : State → Answer}
    (h : AnswerWrites i (beginMainLoop s) (body (beginMainLoop s))) (e : hostCommand s op body = .next t) :
    Writes i s t := by
  rcases hostCommand_cases s op body with ⟨u, v, hb, e'⟩ | ⟨r, hb, e'⟩ | ⟨u, r, hb, e'⟩ | ⟨f, hb, e'⟩ <;>
    rw [e'] at e <;> cases e
  · rw [hb] at h
    exact h
  · exact .of_eq rfl
  · rw [hb] at h
    exact h
  · exact .of_eq rfl

/-- A setup of the driver with the ticks after it writes the shadows alone, and its end the readiness. -/
theorem writes_armDriver_driverSetup (s : State) (sh : Shadows) :
    Writes .drvInit s (armDriver (driverSetup { s with shadows := sh })) := by
  have hset := regs_driverSetup { s with shadows := sh }
  generalize driverSetup { s with shadows := sh } = u at *
  have harm : regs (armDriver u) = { regs u with driverReady := true } := by
    unfold armDriver
    rw [regs_power, ← regs_preemptPoint u]
    rfl
  unfold Writes
  rw [harm, hset]
  rfl

theorem execDrvInit_writes {s t : State} (e : execDrvInit s = .next t) : Writes .drvInit s t := by
  refine hostCommand_writes ?_ e
  split
  · trivial
  · split
    · rfl
    · trivial
    · split
      · trivial
      · exact writes_armDriver_driverSetup _ _

theorem execSetEnable_writes {on : Bool} {s t : State} (e : execSetEnable on s = .next t) : Writes (.setEnable on) s t := by
  refine hostCommand_writes ?_ e
  split
  · trivial
  · split
    · have h : regs (preemptPoint (power (beginMainLoop s) true)) = regs (beginMainLoop s) := by simp
      show { regs (preemptPoint (power (beginMainLoop s) true)) with enabled := true } = allowed _ _ _
      rw [h]
      rfl
    · have h : regs (power (preemptPoint { beginMainLoop s with enabled := false }) false) =
          regs { beginMainLoop s with enabled := false } := by simp
      show regs (power (preemptPoint { beginMainLoop s with enabled := false }) false) = _
      rw [h]
      rfl

/-- BLDISABLE and BLENABLE write the pairing flag alone among the listed registers. -/
theorem execBlDisable_writes {s t : State} (e : execBlDisable s = .next t) : Writes .blDisable s t := by
  refine hostCommand_writes ?_ e
  split
  · trivial
  · split
    · trivial
    · split
      · rfl
      · trivial

theorem execBlEnable_writes {s t : State} (e : execBlEnable s = .next t) : Writes .blEnable s t := by
  refine hostCommand_writes ?_ e
  split
  · trivial
  · split
    · trivial
    · split
      · rfl
      · trivial

theorem execSetBlAmount_writes {a : Word} {s t : State} (e : execSetBlAmount a s = .next t) :
    Writes (.setBlAmount a) s t := by
  refine hostCommand_writes ?_ e
  split
  · trivial
  · split
    · trivial
    · split
      · trivial
      · rfl

theorem execSetFreq_writes {f : Word} {s t : State} (e : execSetFreq f s = .next t) : Writes (.setFreq f) s t := by
  refine hostCommand_writes ?_ e
  split
  · rename_i u hu
    obtain ⟨_, _, _, _, _, _, _, rfl⟩ := arm_ok_frame hu
    rfl
  · trivial

theorem execValParam_writes {p : BitVec 3} {v : Word} {s t : State} (e : execValParam p v s = .next t) :
    Writes (.valParam p v) s t := by
  refine hostCommand_writes ?_ e
  split
  · trivial
  · split
    · trivial
    · trivial
    · rfl

theorem execSetParam_writes {p : BitVec 3} {v : Word} {s t : State} (e : execSetParam p v s = .next t) :
    Writes (.setParam p v) s t := by
  refine hostCommand_writes ?_ e
  split
  · trivial
  · split
    · trivial
    · split
      · trivial
      · trivial
      · rfl

/-- A driver operation raised by itself writes the shadows alone, or sets a model fault. -/
theorem regs_raised {s u : State} {c : Bool} (h : regs u = { regs s with shadows := u.shadows }) :
    regs (if c then addFault s .unmodelled else u) =
      { regs s with shadows := (if c then addFault s .unmodelled else u).shadows } := by
  cases c
  · exact h
  · rfl

theorem execEvStatusPoll_writes {s t : State} (e : execEvStatusPoll s = .next t) : Writes .evStatusPoll s t := by
  cases e
  split
  · exact statusRead_onlyStatus (beginMainLoop s)
  · exact .of_eq rfl

/-- A tick event, taken or not, writes none of the listed registers. -/
theorem regs_tickEvent (hd : Handler) (s : State) : regs (if s.handler = hd then takeTick s else s) = regs s := by
  split
  · exact regs_takeTick s
  · rfl

/-- Every instruction writes by the table. -/
theorem exec_writes {i : Instr} {s t : State} (e : exec i s = .next t) : Writes i s t := by
  cases i with
  | resetPos v =>
    change execResetPos v s = _ at e
    refine hostCommand_writes ?_ e
    split
    · trivial
    · rfl
  | setInstr v =>
    change execSetInstr v s = _ at e
    refine hostCommand_writes ?_ e
    exact answerWrites_storeChecked fun _ => rfl
  | setInstrPark v m =>
    change execSetInstrPark v m s = _ at e
    refine hostCommand_writes ?_ e
    split
    · trivial
    · exact answerWrites_storeChecked fun _ => rfl
  | setTarget v =>
    change execSetTarget v s = _ at e
    refine hostCommand_writes ?_ e
    exact answerWrites_storeChecked fun _ => rfl
  | setTargetPark v m =>
    change execSetTargetPark v m s = _ at e
    refine hostCommand_writes ?_ e
    split
    · trivial
    · exact answerWrites_storeChecked fun _ => rfl
  | setSync on => cases e; rfl
  | blDisable => exact execBlDisable_writes e
  | blEnable => exact execBlEnable_writes e
  | setBlAmount a => exact execSetBlAmount_writes e
  | markOrigin => cases e; rfl
  | getMotor => cases e; rfl
  | getInstr =>
    change execGetInstr s = _ at e
    exact hostCommand_writes (answerWrites_valueChecked _ _ _) e
  | getTarget =>
    change execGetTarget s = _ at e
    exact hostCommand_writes (answerWrites_valueChecked _ _ _) e
  | getBl => cases e; rfl
  | getTDist =>
    change execGetTDist s = _ at e
    exact hostCommand_writes (answerWrites_valueChecked _ _ _) e
  | getOtDist =>
    change execGetOtDist s = _ at e
    exact hostCommand_writes (answerWrites_valueChecked _ _ _) e
  | getRampDir => cases e; rfl
  | setFreq f => exact execSetFreq_writes e
  | getFreq => cases e; rfl
  | setEnable on => exact execSetEnable_writes e
  | setSlew on => cases e; rfl
  | getMode => cases e; rfl
  | getSlewRatio => cases e; rfl
  | drvInit => exact execDrvInit_writes e
  | valParam p v => exact execValParam_writes e
  | setParam p v => exact execSetParam_writes e
  | getParam p =>
    change execGetParam p s = _ at e
    refine hostCommand_writes ?_ e
    split
    · trivial
    · rfl
  | getStatus => cases e; rfl
  | calibrate => cases e; rfl
  | drvMsTrack => cases e; exact regs_raised (regs_setMicrostep s .track)
  | drvMsSlew => cases e; exact regs_raised (regs_setMicrostep s .slew)
  | drvDecayTrack => cases e; exact regs_raised (regs_setDecay s .track)
  | drvDecaySlew => cases e; exact regs_raised (regs_setDecay s .slew)
  | drvUpdateStatus => cases e; exact statusRead_onlyStatus s
  | drvPower on => cases e; exact .of_eq (regs_power s on)
  | evTickStd => cases e; exact .of_eq (regs_tickEvent .standard s)
  | evTickFast => cases e; exact .of_eq (regs_tickEvent .fast s)
  | evModePoll => cases e; exact onlyModeSwitch_modePoll (beginMainLoop s)
  | evStatusPoll => exact execEvStatusPoll_writes e

/-- Settles O60, by the table of the writers. -/
theorem registerWritersAreListed : Obligations.RegisterWritersAreListed := by
  intro i s t e
  obtain ⟨hsync, hamount, horigin, hindex, hdis⟩ := allowed_position_writers i (regs s) (regs t)
  obtain ⟨hfreq, hen, hhint, hhandler⟩ := allowed_sequencer_writers i (regs s) (regs t)
  obtain ⟨hcfg, hready, hstatus⟩ := allowed_driver_writers i (regs s) (regs t)
  have hshadows := allowed_shadow_writers i (regs s) (regs t)
  rw [← exec_writes e] at hsync hamount horigin hindex hdis hfreq hen hhint hhandler hcfg hready hstatus hshadows
  exact ⟨hsync, hfreq, hen, hhint, hamount, horigin, hindex, hdis, hcfg, hready, hhandler, hstatus, hshadows⟩

end Sys2Proof.Proofs
end

section
/-! PROOFS. The encoding (30_encoding.md R80 to R92): each operand form reads back the word it is assembled into, and
accepts no other; the round trip, the command port and the step follow from the table row by row. -/

namespace Sys2Proof.Proofs

open Sys2Proof Sys2Proof.Machine Sys2Proof.Safety Sys2Proof.Laws

/-! ### Each operand form reads its own word -/

theorem formNone_mkCommand (op : Byte) (i : Instr) : formNone (mkCommand op 0 0 0) i = .ok i := by
  simp [formNone]

theorem formA_mkCommand (op : Byte) (k : Word → Instr) (a : Word) : formA (mkCommand op 0 0 a) k = .ok (k a) := by
  simp [formA]

theorem formAB_mkCommand (op : Byte) (k : Word → BitVec 16 → Instr) (b : BitVec 16) (a : Word) :
    formAB (mkCommand op 0 b a) k = .ok (k a b) := by
  simp [formAB]

theorem formBool_mkCommand (op : Byte) (k : Bool → Instr) (on : Bool) :
    formBool (mkCommand op (boolField on) 0 0) k = .ok (k on) := by
  cases on <;> simp [formBool, boolField]

theorem formPid_mkCommand (op : Byte) (k : BitVec 3 → Instr) {p : BitVec 3} (hp : pidOk p = true) :
    formPid (mkCommand op (p.setWidth 8) 0 0) k = .ok (k p) := by
  simp [formPid, pidField_lt hp]

theorem formPidA_mkCommand (op : Byte) (k : BitVec 3 → Word → Instr) {p : BitVec 3} (a : Word) (hp : pidOk p = true) :
    formPidA (mkCommand op (p.setWidth 8) 0 a) k = .ok (k p a) := by
  simp [formPidA, pidField_lt hp]

/-! ### The round trip -/

/-- The `OP` field of an instruction's word is the opcode of its row. -/
@[simp] theorem fieldOp_encode (i : Instr) : fieldOp (encode i) = opcode i := by
  cases i <;> exact fieldOp_mkCommand _ _ _ _

/-- The block's own range holds the opcodes of the operations that are no host commands (30_encoding.md R85). -/
@[simp] theorem isBlockOpcode_encode (i : Instr) : isBlockOpcode (encode i) = !i.isHostCommand := by
  unfold isBlockOpcode
  rw [fieldOp_encode]
  cases i <;> rfl

/-- The command port reads a well-formed command from its word: its opcode selects its row, and the row's operand form
reads back the operands (30_encoding.md R81, R84). -/
theorem decodeHost_encode {i : Instr} (hwf : i.wf = true) (hhost : i.isHostCommand = true) :
    decodeHost (encode i) = .ok i := by
  unfold decodeHost
  rw [fieldOp_encode]
  cases i
  case resetPos | setInstr | setTarget | setBlAmount | setFreq => exact formA_mkCommand _ _ _
  case setInstrPark | setTargetPark => exact formAB_mkCommand _ _ _ _
  case setSync | setEnable | setSlew => exact formBool_mkCommand _ _ _
  case getParam => exact formPid_mkCommand _ _ hwf
  case valParam | setParam => exact formPidA_mkCommand _ _ _ hwf
  case drvMsTrack | drvMsSlew | drvDecayTrack | drvDecaySlew | drvUpdateStatus | drvPower | evTickStd | evTickFast |
      evModePoll | evStatusPoll =>
    cases hhost
  all_goals exact formNone_mkCommand _ _

/-- The block reads its own operations from their words; DRV_POWER alone has an operand (30_encoding.md R85, log 6). -/
theorem decodeRaised_encode {i : Instr} (hown : i.isHostCommand = false) : decodeRaised (encode i) = .ok i := by
  unfold decodeRaised
  rw [fieldOp_encode]
  cases i
  case drvPower on =>
    have hx : (fieldX (encode (.drvPower on))).getLsbD 0 = on := by
      rw [encode, fieldX_mkCommand]
      cases on <;> rfl
    exact congrArg (fun b => Except.ok (Instr.drvPower b)) hx
  case drvMsTrack | drvMsSlew | drvDecayTrack | drvDecaySlew | drvUpdateStatus | evTickStd | evTickFast | evModePoll |
      evStatusPoll =>
    rfl
  all_goals cases hown

theorem decodeTable_encode {i : Instr} (hwf : i.wf = true) : decodeTable (encode i) = .ok i := by
  unfold decodeTable
  rw [isBlockOpcode_encode]
  cases hhost : i.isHostCommand with
  | true => exact decodeHost_encode hwf hhost
  | false => exact decodeRaised_encode hhost

/-- Settles O1, by the row of the instruction. -/
theorem decodeEncodeRoundTrip : Obligations.DecodeEncodeRoundTrip := by
  intro i hwf
  refine ⟨decodeTable_encode hwf, ?_, decodeHost_encode hwf, decodeRaised_encode⟩
  rw [decodeBytes_bytesOfCommand]
  exact decodeTable_encode hwf

/-! ### What the command port accepts -/

/-- `w` is the word of the well-formed host command `i`. -/
structure IsWordOf (w : Command) (i : Instr) : Prop where
  encode_eq : encode i = w
  wf : i.wf = true
  host : i.isHostCommand = true

theorem IsWordOf.of_eq {w w' : Command} {i : Instr} (h : IsWordOf w' i) (e : w' = w) : IsWordOf w i := e ▸ h

/-- A word is assembled from its opcode's number and its other fields. -/
theorem mkCommand_of_op {w : Command} {n : Nat} (hop : (fieldOp w).toNat = n) :
    mkCommand (BitVec.ofNat 8 n) (fieldX w) (fieldB w) (fieldA w) = w := by
  rw [← hop, BitVec.ofNat_toNat, BitVec.setWidth_eq, mkCommand_fields]

section Rows

variable {w : Command} {i : Instr} {n : Nat} (hop : (fieldOp w).toNat = n)
include hop

/-- A row of form `A:s32` or `A:f32` accepts the words of its command alone; the other forms follow. -/
theorem isWordOf_formA {k : Word → Instr} (hrow : ∀ a, IsWordOf (mkCommand (BitVec.ofNat 8 n) 0 0 a) (k a))
    (h : formA w k = .ok i) : IsWordOf w i := by
  obtain ⟨rfl, hx, hb⟩ := formA_ok h
  exact (hrow _).of_eq (by rw [← hx, ← hb, mkCommand_of_op hop])

theorem isWordOf_formNone {j : Instr} (hrow : IsWordOf (mkCommand (BitVec.ofNat 8 n) 0 0 0) j)
    (h : formNone w j = .ok i) : IsWordOf w i := by
  obtain ⟨rfl, hx, hb, ha⟩ := formNone_ok h
  exact hrow.of_eq (by rw [← mkCommand_of_op hop, hx, hb, ha])

theorem isWordOf_formAB {k : Word → BitVec 16 → Instr}
    (hrow : ∀ a b, IsWordOf (mkCommand (BitVec.ofNat 8 n) 0 b a) (k a b)) (h : formAB w k = .ok i) : IsWordOf w i := by
  obtain ⟨rfl, hx⟩ := formAB_ok h
  exact (hrow _ _).of_eq (by rw [← hx, mkCommand_of_op hop])

theorem isWordOf_formBool {k : Bool → Instr}
    (hrow : ∀ on, IsWordOf (mkCommand (BitVec.ofNat 8 n) (boolField on) 0 0) (k on)) (h : formBool w k = .ok i) :
    IsWordOf w i := by
  obtain ⟨on, rfl, hx, hb, ha⟩ := formBool_ok h
  exact (hrow on).of_eq (by rw [← mkCommand_of_op hop, hx, hb, ha])

theorem isWordOf_formPid {k : BitVec 3 → Instr}
    (hrow : ∀ p, pidOk p = true → IsWordOf (mkCommand (BitVec.ofNat 8 n) (p.setWidth 8) 0 0) (k p))
    (h : formPid w k = .ok i) : IsWordOf w i := by
  obtain ⟨p, hp, rfl, hx, hb, ha⟩ := formPid_ok h
  exact (hrow p hp).of_eq (by rw [← mkCommand_of_op hop, hx, hb, ha])

theorem isWordOf_formPidA {k : BitVec 3 → Word → Instr}
    (hrow : ∀ p a, pidOk p = true → IsWordOf (mkCommand (BitVec.ofNat 8 n) (p.setWidth 8) 0 a) (k p a))
    (h : formPidA w k = .ok i) : IsWordOf w i := by
  obtain ⟨p, hp, rfl, hx, hb⟩ := formPidA_ok h
  exact (hrow p _ hp).of_eq (by rw [← hx, ← hb, mkCommand_of_op hop])

end Rows

/-- A word that the command port accepts is the word of its command: the opcode selects the row, and the row's operand
form accepts no other word (30_encoding.md R81, R84, R91). -/
theorem isWordOf_of_decodeHost {w : Command} {i : Instr} (h : decodeHost w = .ok i) : IsWordOf w i := by
  unfold decodeHost at h
  split at h <;> rename_i hop
  any_goals
    with_reducible refine isWordOf_formNone hop ?_ h
    exact ⟨rfl, rfl, rfl⟩
  any_goals
    with_reducible refine isWordOf_formA hop (fun _ => ?_) h
    exact ⟨rfl, rfl, rfl⟩
  any_goals
    with_reducible refine isWordOf_formAB hop (fun _ _ => ?_) h
    exact ⟨rfl, rfl, rfl⟩
  any_goals
    with_reducible refine isWordOf_formBool hop (fun _ => ?_) h
    exact ⟨rfl, rfl, rfl⟩
  any_goals
    with_reducible refine isWordOf_formPid hop (fun _ hp => ?_) h
    exact ⟨rfl, hp, rfl⟩
  any_goals
    with_reducible refine isWordOf_formPidA hop (fun _ _ hp => ?_) h
    exact ⟨rfl, hp, rfl⟩
  -- An opcode of no row.
  split at h <;> cases h

/-- Settles O2. -/
theorem acceptedHostWordIsItsEncoding : Obligations.AcceptedHostWordIsItsEncoding := by
  intro w i h
  obtain ⟨hw, hwf, hhost⟩ := isWordOf_of_decodeHost h
  exact ⟨hw, hwf, hhost⟩

/-- A word that the port reads as no command answers ILLEGAL (30_encoding.md R92, log 28). -/
theorem runHostWord_of_error {w : Command} {r : Reject} (h : decodeHost w = .error r) (s : State) :
    runHostWord w s = .next (answered s (fieldOp w) .illegal 0#32) := by
  unfold runHostWord
  rw [h]
  exact hostCommand_raise rfl

theorem runHostWord_of_ok {w : Command} {i : Instr} (h : decodeHost w = .ok i) (s : State) :
    runHostWord w s = exec i s := by
  unfold runHostWord
  rw [h]

theorem runRaisedWord_of_ok {w : Command} {i : Instr} (h : decodeRaised w = .ok i) (s : State) :
    runRaisedWord w s = exec i s := by
  unfold runRaisedWord
  rw [h]

theorem runHostWord_of_not_word {w : Command} (hnot : ∀ i, ¬IsWordOf w i) (s : State) :
    runHostWord w s = .next (answered s (fieldOp w) .illegal 0#32) := by
  cases h : decodeHost w with
  | ok i => exact absurd (isWordOf_of_decodeHost h) (hnot i)
  | error r => exact runHostWord_of_error h s

/-- No host command has an opcode in the block's own range (30_encoding.md R85). -/
theorem not_isWordOf_of_blockOpcode {w : Command} (hop : 0xE0 ≤ (fieldOp w).toNat) (i : Instr) : ¬IsWordOf w i := by
  intro hi
  have hblock : isBlockOpcode (encode i) = true := by
    rw [hi.encode_eq]
    exact decide_eq_true hop
  rw [isBlockOpcode_encode, hi.host] at hblock
  cases hblock

/-- Settles O3: by O2 the port accepts no such word. -/
theorem otherHostWordsAnswerIllegal : Obligations.OtherHostWordsAnswerIllegal := by
  intro w s
  constructor
  · intro hnone
    exact runHostWord_of_not_word (fun i hi => hnone i hi.wf hi.host hi.encode_eq) s
  · intro hop
    exact runHostWord_of_not_word (not_isWordOf_of_blockOpcode hop) s

/-- Settles O4, by evaluation of the decoder. -/
theorem writtenOutWordsDecode : Obligations.WrittenOutWordsDecode := by
  unfold Obligations.WrittenOutWordsDecode
  decide

/-! ### The step -/

theorem step_of_cons {s : State} {slot : Slot} {rest : List Slot} (h : s.schedule = slot :: rest) :
    step s = runSlot slot { s with schedule := rest } := by
  unfold step
  rw [h]
  rfl

/-- A table word runs as its instruction, whichever agent issues it (30_encoding.md R85). -/
theorem runSlot_slotOfCommand {w : Command} {i : Instr} (h : decodeTable w = .ok i) (s : State) :
    runSlot (slotOfCommand w) s = exec i s := by
  unfold decodeTable at h
  unfold slotOfCommand
  cases hb : isBlockOpcode w <;> rw [hb] at h
  · exact runHostWord_of_ok h s
  · exact runRaisedWord_of_ok h s

theorem tickInstr_eq (s : State) : tickInstr s = if s.handler = .fast then .evTickFast else .evTickStd := by
  unfold tickInstr
  cases s.handler <;> rfl

theorem schedule_withFetchWord (s : State) (w : Command) :
    (s.withFetchWord 64 w.toNat).schedule = slotOfCommand w :: s.schedule := by
  have hw : BitVec.ofNat 64 (w.toNat % 2 ^ 64) = w := by
    rw [Nat.mod_eq_of_lt w.isLt, BitVec.ofNat_toNat, BitVec.setWidth_eq]
  show slotOfCommand _ :: _ = _
  rw [hw]

/-- Settles O5, by the kind of the first move. -/
theorem stepRunsDecodedInstruction : Obligations.StepRunsDecodedInstruction := by
  intro s rest
  refine ⟨fun w i h hs => ?_, fun w i h hs => ?_, fun w i h hs => ?_, fun w e h hs => ?_, fun hs => ?_, fun hs => ?_,
    fun w i h => ?_⟩
  · rw [step_of_cons hs, runSlot_slotOfCommand h]
  · rw [step_of_cons hs]
    exact runHostWord_of_ok h _
  · rw [step_of_cons hs]
    exact runRaisedWord_of_ok h _
  · rw [step_of_cons hs]
    exact runHostWord_of_error h _
  · rw [step_of_cons hs, ← tickInstr_eq s]
    rfl
  · unfold step
    rw [hs]
  · rw [step_of_cons (schedule_withFetchWord s w), runSlot_slotOfCommand h]
    rfl

/-! ### The packed status -/

/-- A flag fills its own bit and no other. -/
theorem getLsbD_flagBit (b : Bool) {k : Nat} (hk : k < 32) (n : Nat) :
    (flagBit b k).getLsbD n = (b && decide (n = k)) := by
  cases b with
  | false => simp [flagBit]
  | true =>
    simp only [flagBit, if_true, BitVec.getLsbD_ofNat, Nat.testBit_two_pow, Bool.true_and]
    by_cases h : n = k
    · simp [h, hk]
    · simp [h, Ne.symm h]

/-- Settles O49: each of the nine flags is alone at its place, and no flag lies above. -/
theorem packedStatusBits : Obligations.PackedStatusBits := by
  intro t n
  unfold packStatus
  simp (disch := decide) only [BitVec.getLsbD_or, getLsbD_flagBit]
  match n with
  | 0 | 1 | 2 | 3 | 4 | 5 | 6 | 7 | 8 => simp
  | n + 9 => simp

end Sys2Proof.Proofs
end

section
/-! PROOFS. Every host command answers once (30_encoding.md R82, 60_exceptions.md R280, R282, R300): a body causes no
response of its own and ends in a result of its row, and the frame appends the one response. -/

namespace Sys2Proof.Proofs

open Sys2Proof Sys2Proof.Machine Sys2Proof.Safety Sys2Proof.Laws

/-! ### No response before the end -/

/-- `t` has the history `h` with events after it that are no responses. -/
def ExtendsSilently (h : List Event) (t : State) : Prop :=
  ∃ evs, t.history = h ++ evs ∧ ∀ e ∈ evs, isResp e = false

theorem extendsSilently_refl (s : State) : ExtendsSilently s.history s := ⟨[], (List.append_nil _).symm, by simp⟩

theorem ExtendsSilently.append {h evs : List Event} {s t : State} (hs : ExtendsSilently h s)
    (ht : t.history = s.history ++ evs) (hevs : ∀ e ∈ evs, isResp e = false) : ExtendsSilently h t := by
  obtain ⟨l, hl, hresp⟩ := hs
  refine ⟨l ++ evs, by rw [ht, hl, List.append_assoc], fun e he => ?_⟩
  exact (List.mem_append.1 he).elim (hresp e) (hevs e)

/-- A tick causes pulses and pin events alone. -/
theorem takeTick_extendsSilently {h : List Event} {s : State} (hs : ExtendsSilently h s) :
    ExtendsSilently h (takeTick s) := by
  obtain ⟨evs, hevs, hside⟩ := takeTick_withSide s
  have hhist : (takeTick s).history = s.history ++ evs :=
    congrArg State.history (hside (driverSide s) s.history ⟨rfl, rfl⟩)
  exact hs.append hhist fun e he => (hevs e he).2

/-- Neither ticks nor driver operations cause a response. -/
theorem stable_extendsSilently (h : List Event) : Stable (ExtendsSilently h) where
  tick _ hs := takeTick_extendsSilently hs
  preempt _ _ hs := hs
  driver _ _ _ _ _ hevs hs := hs.append rfl fun e he => (hevs e he).2

/-! ### How a body may end -/

/-- The end of a body that started with the history `h`: a result of the list `rs`, and no response of its own. -/
def EndsIn (rs : List Result) (h : List Event) : Answer → Prop
  | .done t _ => .ok ∈ rs ∧ ExtendsSilently h t
  | .raise r => r ∈ rs
  | .failed t r => r ∈ rs ∧ ExtendsSilently h t
  | .modelFault _ => .fault ∈ rs

/-- `t` is `s` after events that are no responses and then one response, with a result of the list and value 0 unless
the result is OK. -/
def AnsweredOnce (rs : List Result) (op : Byte) (s t : State) : Prop :=
  ∃ (evs : List Event) (r : Result) (v : Word), t.history = s.history ++ evs ++ [.resp op r v] ∧
    (∀ e ∈ evs, isResp e = false) ∧ r ∈ rs ∧ (r ≠ .ok → v = 0#32)

theorem answeredOnce_respond {rs : List Result} {op : Byte} {s t : State} {r : Result} {v : Word}
    (hr : r ∈ rs) (hv : r ≠ .ok → v = 0#32) (ht : ExtendsSilently s.history t) :
    AnsweredOnce rs op s (respond t op r v) := by
  obtain ⟨evs, hhist, hresp⟩ := ht
  exact ⟨evs, r, v, by simp [hhist], hresp, hr, hv⟩

/-- The frame of a host command adds the one response, and it comes last (60_exceptions.md R300). -/
theorem hostCommand_answeredOnce {rs : List Result} {op : Byte} {body : State → Answer} {s : State}
    (hbody : ∀ t, EndsIn rs t.history (body t)) :
    ∃ t, hostCommand s op body = .next t ∧ AnsweredOnce rs op s t := by
  have h := hbody (beginMainLoop s)
  rcases hostCommand_cases s op body with ⟨t, v, hb, e⟩ | ⟨r, hb, e⟩ | ⟨t, r, hb, e⟩ | ⟨f, hb, e⟩ <;> rw [hb] at h
  · exact ⟨_, e, answeredOnce_respond h.1 (fun hne => absurd rfl hne) h.2⟩
  · exact ⟨_, e, answeredOnce_respond (t := beginMainLoop s) h (fun _ => rfl) (extendsSilently_refl s)⟩
  · exact ⟨_, e, answeredOnce_respond h.1 (fun _ => rfl) h.2⟩
  · exact ⟨_, e, answeredOnce_respond (t := addFault (beginMainLoop s) f) h (fun _ => rfl) (extendsSilently_refl s)⟩

section Bodies

variable {rs : List Result} {s : State}

/-- A body that completes without an event. -/
theorem endsIn_done {t : State} {v : Word} (hok : .ok ∈ rs) (ht : t.history = s.history) :
    EndsIn rs s.history (.done t v) := ⟨hok, ht ▸ extendsSilently_refl t⟩

theorem endsIn_raise {h : List Event} {r : Result} (hr : r ∈ rs) : EndsIn rs h (.raise r) := hr

theorem endsIn_modelFault {h : List Event} {f : ModelFault} (hf : .fault ∈ rs) : EndsIn rs h (.modelFault f) := hf

/-- A guard that refuses, before the rest of the body. -/
theorem endsIn_guard {h : List Event} {c : Prop} [Decidable c] {r : Result} {a : Answer} (hr : r ∈ rs)
    (ha : EndsIn rs h a) : EndsIn rs h (if c then .raise r else a) := by
  split
  · exact endsIn_raise hr
  · exact ha

theorem endsIn_storeChecked {v : Int} {k : Word → State} (hok : .ok ∈ rs) (hfault : .fault ∈ rs)
    (hk : ∀ w, (k w).history = s.history) : EndsIn rs s.history (storeChecked v k) := by
  unfold storeChecked
  split
  · exact endsIn_done hok (hk _)
  · exact endsIn_modelFault hfault

theorem endsIn_valueChecked {v : Int} (hok : .ok ∈ rs) (hfault : .fault ∈ rs) :
    EndsIn rs s.history (valueChecked s v) := by
  unfold valueChecked
  split
  · exact endsIn_done hok rfl
  · exact endsIn_modelFault hfault

end Bodies

/-- The checks of a configuration give OK or one of two refusals (43_driver.md R198). -/
theorem configChecks_result (p : Params) (c : DriverConfig) :
    configChecks p c = .ok ∨ configChecks p c = .invalid ∨ configChecks p c = .unsupported := by
  unfold configChecks
  repeat' refine
    iteInduction (motive := fun r => r = Result.ok ∨ r = .invalid ∨ r = .unsupported) (fun _ => ?_) fun _ => ?_
  all_goals decide

/-- The checks of a configuration refuse with INVALID or UNSUPPORTED alone (43_driver.md R198). -/
theorem validateConfig_refuse {p : Params} {c : DriverConfig} {r : Result} (h : validateConfig p c = .refuse r) :
    r = .invalid ∨ r = .unsupported := by
  unfold validateConfig at h
  rcases configChecks_result p c with hc | hc | hc <;> rw [hc] at h
  · simp only at h
    split at h <;> cases h
  · exact .inl (Verdict.refuse.inj h).symm
  · exact .inr (Verdict.refuse.inj h).symm

/-- The end of a body by the verdict on a configuration (43_driver.md R199, R200, R202). -/
theorem endsIn_verdict {rs : List Result} {h : List Event} {p : Params} {c : DriverConfig} {refused : Result → Answer}
    {accepted : Answer} (hrefused : ∀ r, r = .invalid ∨ r = .unsupported → EndsIn rs h (refused r))
    (hfault : .fault ∈ rs) (haccepted : EndsIn rs h accepted) :
    EndsIn rs h (match validateConfig p c with
      | .refuse r => refused r
      | .unmodelled => .modelFault .unmodelled
      | .ok => accepted) := by
  cases hv : validateConfig p c with
  | refuse r => exact hrefused r (validateConfig_refuse hv)
  | unmodelled => exact hfault
  | ok => exact haccepted

/-- An id below 7 names a parameter (30_encoding.md R81). -/
theorem isSome_paramOfField (p : BitVec 3) (hp : pidOk p = true) : (paramOfField p).isSome = true := by
  revert p
  decide

/-- A parameter command with an id below 7 goes on with the parameter. -/
theorem endsIn_paramOfField {rs : List Result} {h : List Event} {p : BitVec 3} (hp : pidOk p = true) {a : Answer}
    {k : ParamId → Answer} (hk : ∀ id, EndsIn rs h (k id)) :
    EndsIn rs h (match paramOfField p with
      | none => a
      | some id => k id) := by
  obtain ⟨id, hid⟩ := Option.isSome_iff_exists.1 (isSome_paramOfField p hp)
  rw [hid]
  exact hk id

/-! ### Every host command -/

/-- From every state `f` answers a next state, with one response. -/
def AnswersOnce (f : State → Host.Outcome State Fault Refusal) (rs : List Result) (op : Byte) : Prop :=
  ∀ s, ∃ t, f s = .next t ∧ AnsweredOnce rs op s t

/-- A host command, by its body. -/
theorem answersOnce_of_body {f : State → Host.Outcome State Fault Refusal} {rs : List Result} {op : Byte}
    {body : State → Answer} (hf : ∀ s, f s = hostCommand s op body) (hbody : ∀ t, EndsIn rs t.history (body t)) :
    AnswersOnce f rs op := by
  intro s
  rw [hf]
  exact hostCommand_answeredOnce hbody

section Bodies

variable {f : State → Host.Outcome State Fault Refusal} {rs : List Result} {op : Byte}

/-- A command that always completes, and causes no event. -/
theorem answersOnce_done {g : State → State} {v : State → Word}
    (hf : ∀ s, f s = hostCommand s op fun t => .done (g t) (v t)) (hok : .ok ∈ rs)
    (hg : ∀ t, (g t).history = t.history) : AnswersOnce f rs op :=
  answersOnce_of_body hf fun t => endsIn_done hok (hg t)

theorem answersOnce_storeChecked {v : State → Int} {k : State → Word → State}
    (hf : ∀ s, f s = hostCommand s op fun t => storeChecked (v t) (k t)) (hok : .ok ∈ rs) (hfault : .fault ∈ rs)
    (hk : ∀ t w, (k t w).history = t.history) : AnswersOnce f rs op :=
  answersOnce_of_body hf fun t => endsIn_storeChecked hok hfault (hk t)

/-- A park write: it refuses `m = 0`, and rounds and stores any other (40_position.md R113, R115). -/
theorem answersOnce_park {m : BitVec 16} {v : State → Int} {k : State → Word → State}
    (hf : ∀ s, f s = hostCommand s op fun t => if m = 0#16 then .raise .invalid else storeChecked (v t) (k t))
    (hok : .ok ∈ rs) (hinvalid : .invalid ∈ rs) (hfault : .fault ∈ rs) (hk : ∀ t w, (k t w).history = t.history) :
    AnswersOnce f rs op :=
  answersOnce_of_body hf fun t => endsIn_guard hinvalid (endsIn_storeChecked hok hfault (hk t))

theorem answersOnce_valueChecked {v : State → Int} (hf : ∀ s, f s = hostCommand s op fun t => valueChecked t (v t))
    (hok : .ok ∈ rs) (hfault : .fault ∈ rs) : AnswersOnce f rs op :=
  answersOnce_of_body hf fun _ => endsIn_valueChecked hok hfault

end Bodies

theorem execResetPos_answersOnce (v : Word) :
    AnswersOnce (execResetPos v) (allowedResults (.resetPos v)) (opcode (.resetPos v)) :=
  answersOnce_of_body (fun _ => rfl) fun _ =>
    endsIn_guard (by simp [allowedResults]) (endsIn_done (by simp [allowedResults]) rfl)

theorem execBlDisable_answersOnce : AnswersOnce execBlDisable (allowedResults .blDisable) (opcode .blDisable) := by
  refine answersOnce_of_body (fun _ => rfl) fun t => endsIn_guard (by decide) (endsIn_guard (by decide) ?_)
  split
  · exact endsIn_done (by decide) rfl
  · exact endsIn_modelFault (by decide)

theorem execBlEnable_answersOnce : AnswersOnce execBlEnable (allowedResults .blEnable) (opcode .blEnable) := by
  refine answersOnce_of_body (fun _ => rfl) fun t => endsIn_guard (by decide) (endsIn_guard (by decide) ?_)
  split
  · exact endsIn_done (by decide) rfl
  · exact endsIn_modelFault (by decide)

theorem execSetBlAmount_answersOnce (a : Word) :
    AnswersOnce (execSetBlAmount a) (allowedResults (.setBlAmount a)) (opcode (.setBlAmount a)) := by
  have hinvalid : .invalid ∈ allowedResults (.setBlAmount a) := by simp [allowedResults]
  exact answersOnce_of_body (fun _ => rfl) fun _ => endsIn_guard (by simp [allowedResults])
    (endsIn_guard hinvalid (endsIn_guard hinvalid (endsIn_done (by simp [allowedResults]) rfl)))

theorem execSetFreq_answersOnce (f : Word) :
    AnswersOnce (execSetFreq f) (allowedResults (.setFreq f)) (opcode (.setFreq f)) := by
  refine answersOnce_of_body (fun _ => rfl) fun t => ?_
  split
  · rename_i u hu
    obtain ⟨_, _, _, _, _, _, _, rfl⟩ := arm_ok_frame hu
    exact endsIn_done (by simp [allowedResults]) rfl
  · exact endsIn_modelFault (by simp [allowedResults])

/-- SETENABLE drives the EN pin, with ticks between its two steps. -/
theorem execSetEnable_answersOnce (on : Bool) :
    AnswersOnce (execSetEnable on) (allowedResults (.setEnable on)) (opcode (.setEnable on)) := by
  refine answersOnce_of_body (fun _ => rfl) fun t => ?_
  have hS := stable_extendsSilently t.history
  refine endsIn_guard (by simp [allowedResults]) ?_
  split
  · exact ⟨by simp [allowedResults], hS.preemptPoint (hS.setPin .en _ (extendsSilently_refl t))⟩
  · exact ⟨by simp [allowedResults], hS.setPin .en _ (hS.preemptPoint (extendsSilently_refl t))⟩

/-- DRVINIT causes pin events and transactions, with ticks in between. -/
theorem execDrvInit_answersOnce : AnswersOnce execDrvInit (allowedResults .drvInit) (opcode .drvInit) := by
  refine answersOnce_of_body (fun _ => rfl) fun t => ?_
  have hS := stable_extendsSilently t.history
  refine endsIn_guard (by decide) (endsIn_verdict ?_ (by decide) ?_)
  · rintro r (rfl | rfl) <;> exact ⟨by decide, extendsSilently_refl t⟩
  · split
    · exact endsIn_modelFault (by decide)
    · exact ⟨by decide, hS.setPin .en _ (hS.preemptPoint (hS.driverSetup (extendsSilently_refl t)))⟩

theorem execValParam_answersOnce {p : BitVec 3} (hp : pidOk p = true) (v : Word) :
    AnswersOnce (execValParam p v) (allowedResults (.valParam p v)) (opcode (.valParam p v)) := by
  refine answersOnce_of_body (fun _ => rfl) fun t => endsIn_paramOfField hp fun id => ?_
  refine endsIn_verdict ?_ (by simp [allowedResults]) (endsIn_done (by simp [allowedResults]) rfl)
  rintro r (rfl | rfl) <;> exact endsIn_raise (by simp [allowedResults])

theorem execSetParam_answersOnce {p : BitVec 3} (hp : pidOk p = true) (v : Word) :
    AnswersOnce (execSetParam p v) (allowedResults (.setParam p v)) (opcode (.setParam p v)) := by
  refine answersOnce_of_body (fun _ => rfl) fun t => endsIn_paramOfField hp fun id => ?_
  refine endsIn_guard (by simp [allowedResults]) ?_
  refine endsIn_verdict ?_ (by simp [allowedResults]) (endsIn_done (by simp [allowedResults]) rfl)
  rintro r (rfl | rfl) <;> exact endsIn_raise (by simp [allowedResults])

theorem execGetParam_answersOnce {p : BitVec 3} (hp : pidOk p = true) :
    AnswersOnce (execGetParam p) (allowedResults (.getParam p)) (opcode (.getParam p)) :=
  answersOnce_of_body (fun _ => rfl) fun _ => endsIn_paramOfField hp fun _ => endsIn_done (by simp [allowedResults]) rfl

/-- Every well-formed host command. -/
theorem exec_answersOnce {i : Instr} (hwf : i.wf = true) (hhost : i.isHostCommand = true) :
    AnswersOnce (exec i) (allowedResults i) (opcode i) := by
  cases i with
  | resetPos v => exact execResetPos_answersOnce v
  | setInstr v =>
    exact answersOnce_storeChecked (f := execSetInstr v) (fun _ => rfl) (by simp [allowedResults])
      (by simp [allowedResults]) fun _ _ => rfl
  | setInstrPark v m =>
    exact answersOnce_park (f := execSetInstrPark v m) (fun _ => rfl) (by simp [allowedResults])
      (by simp [allowedResults]) (by simp [allowedResults]) fun _ _ => rfl
  | setTarget v =>
    exact answersOnce_storeChecked (f := execSetTarget v) (fun _ => rfl) (by simp [allowedResults])
      (by simp [allowedResults]) fun _ _ => rfl
  | setTargetPark v m =>
    exact answersOnce_park (f := execSetTargetPark v m) (fun _ => rfl) (by simp [allowedResults])
      (by simp [allowedResults]) (by simp [allowedResults]) fun _ _ => rfl
  | setSync on => exact answersOnce_done (f := execSetSync on) (fun _ => rfl) (by simp [allowedResults]) fun _ => rfl
  | blDisable => exact execBlDisable_answersOnce
  | blEnable => exact execBlEnable_answersOnce
  | setBlAmount a => exact execSetBlAmount_answersOnce a
  | markOrigin => exact answersOnce_done (f := execMarkOrigin) (fun _ => rfl) (by decide) fun _ => rfl
  | getMotor => exact answersOnce_done (f := execGetMotor) (fun _ => rfl) (by decide) fun _ => rfl
  | getInstr => exact answersOnce_valueChecked (f := execGetInstr) (fun _ => rfl) (by decide) (by decide)
  | getTarget => exact answersOnce_valueChecked (f := execGetTarget) (fun _ => rfl) (by decide) (by decide)
  | getBl => exact answersOnce_done (f := execGetBl) (fun _ => rfl) (by decide) fun _ => rfl
  | getTDist => exact answersOnce_valueChecked (f := execGetTDist) (fun _ => rfl) (by decide) (by decide)
  | getOtDist => exact answersOnce_valueChecked (f := execGetOtDist) (fun _ => rfl) (by decide) (by decide)
  | getRampDir => exact answersOnce_done (f := execGetRampDir) (fun _ => rfl) (by decide) fun _ => rfl
  | setFreq f => exact execSetFreq_answersOnce f
  | getFreq => exact answersOnce_done (f := execGetFreq) (fun _ => rfl) (by decide) fun _ => rfl
  | setEnable on => exact execSetEnable_answersOnce on
  | setSlew on => exact answersOnce_done (f := execSetSlew on) (fun _ => rfl) (by simp [allowedResults]) fun _ => rfl
  | getMode => exact answersOnce_done (f := execGetMode) (fun _ => rfl) (by decide) fun _ => rfl
  | getSlewRatio => exact answersOnce_done (f := execGetSlewRatio) (fun _ => rfl) (by decide) fun _ => rfl
  | drvInit => exact execDrvInit_answersOnce
  | valParam p v => exact execValParam_answersOnce hwf v
  | setParam p v => exact execSetParam_answersOnce hwf v
  | getParam p => exact execGetParam_answersOnce hwf
  | getStatus => exact answersOnce_done (f := execGetStatus) (fun _ => rfl) (by decide) fun _ => rfl
  | calibrate => exact answersOnce_of_body (f := execCalibrate) (fun _ => rfl) fun _ => endsIn_raise (by decide)
  | drvMsTrack | drvMsSlew | drvDecayTrack | drvDecaySlew | drvUpdateStatus | drvPower | evTickStd | evTickFast
  | evModePoll | evStatusPoll => cases hhost

/-- Settles O18, by the body of each command. -/
theorem hostCommandsAnswerOnce : Obligations.HostCommandsAnswerOnce := by
  intro i s hwf hhost
  obtain ⟨t, hexec, evs, r, v, hhist, hevs, hr, hv⟩ := exec_answersOnce hwf hhost s
  exact ⟨t, evs, r, v, hexec, hhist, hevs, hr, hv⟩

end Sys2Proof.Proofs
end

section
/-! PROOFS. The position and backlash commands (40_position.md R110 to R130): park rounding, the answer of every command with
the whole next state, and from those answers the round trip and the idempotence of the park writes. -/

namespace Sys2Proof.Proofs

open Sys2Proof Sys2Proof.Machine Sys2Proof.Safety Sys2Proof.Laws

/-! ### Park rounding -/

/-- `(2n + d) / 2d` is the multiple of `d` nearest to `n`, the upper one in a tie. -/
theorem mul_roundHalfUp_bounds (n : Nat) {d : Nat} (hd : 0 < d) :
    2 * (d * ((2 * n + d) / (2 * d))) ≤ 2 * n + d ∧ 2 * n < 2 * (d * ((2 * n + d) / (2 * d))) + d := by
  have hdiv := Nat.div_add_mod (2 * n + d) (2 * d)
  have hmod := Nat.mod_lt (2 * n + d) (show 0 < 2 * d by omega)
  rw [Nat.mul_assoc] at hdiv
  omega

/-- `roundHalfAway(n / d)` is the nearest integer, a tie going away from zero (00_scope.md R8). -/
theorem roundHalfAway_nearest (n : Int) {d : Nat} (hd : 0 < d) :
    2 * |n - d * roundHalfAway n d| ≤ d ∧ (2 * |n - d * roundHalfAway n d| = d → |n| < |d * roundHalfAway n d|) := by
  obtain ⟨hlow, hhigh⟩ := mul_roundHalfUp_bounds n.natAbs hd
  have hsigned : (d : Int) * roundHalfAway n d =
      if 0 ≤ n then ((d * ((2 * n.natAbs + d) / (2 * d)) : Nat) : Int)
      else -((d * ((2 * n.natAbs + d) / (2 * d)) : Nat) : Int) := by
    unfold roundHalfAway
    split
    · push_cast
      rfl
    · push_cast
      rw [Int.mul_neg]
  generalize d * ((2 * n.natAbs + d) / (2 * d)) = p at *
  simp only [hsigned, Int.abs_eq_natAbs]
  split <;> omega

/-- Settles O11, with the rounded quotient as the factor. -/
theorem parkRoundIsNearestMultiple : Obligations.ParkRoundIsNearestMultiple := by
  intro raw m hm
  obtain ⟨hnear, htie⟩ := roundHalfAway_nearest raw (show 0 < 4 * m by omega)
  push_cast at hnear htie
  refine ⟨roundHalfAway raw (4 * m), by unfold parkRound; ring, by omega, fun h => htie (by omega)⟩

/-! ### The guard of the tracking modes -/

theorem trackingGuard_passes {m : ModeState} (h : m = .tracking ∨ m = .slewingRequest) :
    ¬(!trackingModes m) = true := by simp [trackingModes_iff.2 h]

theorem trackingGuard_refuses {m : ModeState} (h : ¬(m = .tracking ∨ m = .slewingRequest)) :
    (!trackingModes m) = true := by simpa [← trackingModes_iff] using h

/-! ### Position writes -/

/-- A body that ends in an overflow, with the fault in the form the statements use. -/
theorem hostCommand_overflow {s : State} {op : Byte} {body : State → Answer}
    (h : body (beginMainLoop s) = .modelFault .overflow) :
    hostCommand s op body =
      .next (answered { s with faults := { s.faults with overflow := true } } op .fault 0#32) :=
  hostCommand_modelFault h

/-- Settles O8: each body completes, RESETPOS once its guard lets it through. -/
theorem resetSyncAndOriginWrite : Obligations.ResetSyncAndOriginWrite := by
  intro v on s
  simp only [exec]
  refine ⟨fun hmode => hostCommand_answered (if_neg (trackingGuard_passes hmode)), hostCommand_answered ?_,
    hostCommand_answered rfl⟩
  simp only [Bool.and_eq_true, Bool.not_eq_true']
  rfl

/-- Settles O9, by the two ends of a checked store. -/
theorem coordinateWritesStoreDifference : Obligations.CoordinateWritesStoreDifference := by
  intro v s
  simp only [exec]
  exact ⟨fun hfits => hostCommand_answered (storeChecked_of_inS32 hfits _),
    fun hover => hostCommand_overflow (storeChecked_of_not_inS32 hover _),
    fun hfits => hostCommand_answered (storeChecked_of_inS32 hfits _),
    fun hover => hostCommand_overflow (storeChecked_of_not_inS32 hover _)⟩

/-- Settles O10: the guard on the modulo, then the two ends of a checked store. -/
theorem parkWritesStoreRounding : Obligations.ParkWritesStoreRounding := by
  intro v m s
  simp only [exec]
  exact ⟨fun hm => ⟨hostCommand_raise (if_pos hm), hostCommand_raise (if_pos hm)⟩,
    fun hm hfits => hostCommand_answered ((if_neg hm).trans (storeChecked_of_inS32 hfits _)),
    fun hm hover => hostCommand_overflow ((if_neg hm).trans (storeChecked_of_not_inS32 hover _)),
    fun hm hfits => hostCommand_answered ((if_neg hm).trans (storeChecked_of_inS32 hfits _)),
    fun hm hover => hostCommand_overflow ((if_neg hm).trans (storeChecked_of_not_inS32 hover _))⟩

/-! ### Park rounding is idempotent -/

/-- What a park write leaves in its register `reg`: the rounding `z` where the write is accepted, else what stood there. -/
theorem parkWrite_register {answer : Host.Outcome State Fault Refusal} {reg : State → Word} {s t : State} {m : BitVec 16}
    {z : Int} (hzero : m = 0#16 → ∃ u, answer = .next u ∧ reg u = reg s)
    (hfits : m ≠ 0#16 → InS32 z → ∃ u, answer = .next u ∧ reg u = wordOfInt z)
    (hover : m ≠ 0#16 → ¬InS32 z → ∃ u, answer = .next u ∧ reg u = reg s) (h : answer = .next t) :
    reg t = if m ≠ 0#16 ∧ InS32 z then wordOfInt z else reg s := by
  by_cases hm : m = 0#16
  · obtain ⟨u, hu, hreg⟩ := hzero hm
    cases hu.symm.trans h
    rw [hreg, if_neg fun hacc => hacc.1 hm]
  · by_cases hin : InS32 z
    · obtain ⟨u, hu, hreg⟩ := hfits hm hin
      cases hu.symm.trans h
      rw [hreg, if_pos ⟨hm, hin⟩]
    · obtain ⟨u, hu, hreg⟩ := hover hm hin
      cases hu.symm.trans h
      rw [hreg, if_neg fun hacc => hin hacc.2]

theorem setTargetPark_targetSteps {v : Word} {m : BitVec 16} {s t : State}
    (h : exec (.setTargetPark v m) s = .next t) :
    t.targetSteps = if m ≠ 0#16 ∧ InS32 (parkRound (v.toInt - s.indexSteps.toInt) m.toNat) then
      wordOfInt (parkRound (v.toInt - s.indexSteps.toInt) m.toNat) else s.targetSteps := by
  obtain ⟨hzero, -, -, hfits, hover⟩ := parkWritesStoreRounding v m s
  exact parkWrite_register (reg := State.targetSteps) (fun hm => ⟨_, (hzero hm).2, rfl⟩)
    (fun hm hin => ⟨_, hfits hm hin, rfl⟩) (fun hm hin => ⟨_, hover hm hin, rfl⟩) h

theorem setInstrPark_indexSteps {v : Word} {m : BitVec 16} {s t : State}
    (h : exec (.setInstrPark v m) s = .next t) :
    t.indexSteps = if m ≠ 0#16 ∧ InS32 (parkRound (v.toInt - s.motorSteps.toInt) m.toNat) then
      wordOfInt (parkRound (v.toInt - s.motorSteps.toInt) m.toNat) else s.indexSteps := by
  obtain ⟨hzero, hfits, hover, -, -⟩ := parkWritesStoreRounding v m s
  exact parkWrite_register (reg := State.indexSteps) (fun hm => ⟨_, (hzero hm).1, rfl⟩)
    (fun hm hin => ⟨_, hfits hm hin, rfl⟩) (fun hm hin => ⟨_, hover hm hin, rfl⟩) h

/-- A write of `w` where `accepted`, made a second time over `y`, leaves what the first left: `w` again, or, where both are
refused, the `y` that the first left. -/
theorem guardedWrite_idempotent {accepted : Prop} [Decidable accepted] {w x y x' y' : Word}
    (hfirst : x' = if accepted then w else x) (hsecond : y' = if accepted then w else y)
    (hkept : accepted ∨ y = x') : y' = x' := by
  by_cases hacc : accepted
  · rw [hfirst, hsecond, if_pos hacc, if_pos hacc]
  · rw [hsecond, if_neg hacc]
    exact hkept.resolve_left hacc

/-- Settles O12: whether a park write is accepted, and what it stores, come from the operands and the one register that
stands. -/
theorem parkWritesAreIdempotent : Obligations.ParkWritesAreIdempotent := by
  intro v m s t u u'
  refine ⟨fun hfirst hindex hkept hsecond => ?_, fun hfirst hmotor hkept hsecond => ?_⟩
  · have hs := setTargetPark_targetSteps hsecond
    rw [hindex] at hs
    exact guardedWrite_idempotent (setTargetPark_targetSteps hfirst) hs hkept
  · have hs := setInstrPark_indexSteps hsecond
    rw [hmotor] at hs
    exact guardedWrite_idempotent (setInstrPark_indexSteps hfirst) hs hkept

/-! ### Readers -/

/-- The code of a ramp direction (40_position.md R127, 30_encoding.md R88). -/
theorem signCode_signOf_sub (a b : Int) :
    signCode (signOf (b - a)) = if a < b then 1#32 else if b < a then 0xFFFFFFFF#32 else 0#32 := by
  unfold signOf
  rcases lt_trichotomy a b with h | h | h
  · rw [if_neg (by omega), if_neg (by omega), if_pos h]
    rfl
  · rw [if_neg (by omega), if_pos (by omega), if_neg (by omega), if_neg (by omega)]
    rfl
  · rw [if_pos (by omega), if_neg (by omega), if_pos h]
    rfl

theorem targetDistance_eq (s : State) : targetDistance s = |s.targetSteps.toInt - s.motorSteps.toInt| :=
  (Int.abs_eq_natAbs _).symm

theorem originDistance_eq (s : State) : originDistance s = |s.motorSteps.toInt - s.originSteps.toInt| :=
  (Int.abs_eq_natAbs _).symm

/-- A reader whose value is the integer `z`: it answers `z`, or FAULT where `z` does not fit. -/
theorem hostCommand_valueChecked {s : State} {op : Byte} {v : State → Int} {z : Int} (hz : v (beginMainLoop s) = z) :
    (InS32 z → hostCommand s op (fun t => valueChecked t (v t)) = .next (answered s op .ok (BitVec.ofInt 32 z))) ∧
      (¬InS32 z → hostCommand s op (fun t => valueChecked t (v t)) =
        .next (answered { s with faults := { s.faults with overflow := true } } op .fault 0#32)) := by
  subst hz
  exact ⟨fun hfits => hostCommand_answered (valueChecked_of_inS32 hfits _),
    fun hover => hostCommand_overflow (valueChecked_of_not_inS32 hover _)⟩

/-- Settles O16: three readers of a register, and four of a checked sum or distance. -/
theorem positionReadersAnswer : Obligations.PositionReadersAnswer := by
  intro s inst targ dist near ovf
  have hdist : targetDistance (beginMainLoop s) = dist := targetDistance_eq _
  have hnear : min (originDistance (beginMainLoop s)) (targetDistance (beginMainLoop s)) = near := by
    rw [originDistance_eq, targetDistance_eq]
    rfl
  obtain ⟨hInstr, hInstrOver⟩ := hostCommand_valueChecked (s := s) (op := 0x1B#8) (v := instrumentCoordinate) rfl
  obtain ⟨hTarget, hTargetOver⟩ := hostCommand_valueChecked (s := s) (op := 0x1C#8) (v := targetCoordinate) rfl
  obtain ⟨hTDist, hTDistOver⟩ := hostCommand_valueChecked (op := 0x1E#8) hdist
  obtain ⟨hOtDist, hOtDistOver⟩ := hostCommand_valueChecked (op := 0x1F#8)
    (v := fun t => min (originDistance t) (targetDistance t)) hnear
  simp only [exec]
  refine ⟨hostCommand_answered rfl, hostCommand_answered rfl, hostCommand_answered ?_, hInstr, hInstrOver, hTarget,
    hTargetOver, hTDist, hTDistOver, hOtDist, hOtDistOver⟩
  rw [signCode_signOf_sub]
  rfl

/-- GETINSTR where the coordinate is the operand `v` of an earlier write. -/
theorem getInstr_answers {s : State} {v : Word} (h : s.motorSteps.toInt + s.indexSteps.toInt = v.toInt) :
    exec .getInstr s = .next (answered s 0x1B#8 .ok v) := by
  obtain ⟨-, -, -, hfits, -⟩ := positionReadersAnswer s
  have hread := hfits (h ▸ toInt_inS32 v)
  rwa [h, BitVec.ofInt_toInt] at hread

/-- GETTARGET where the coordinate is the operand `v` of an earlier write. -/
theorem getTarget_answers {s : State} {v : Word} (h : s.targetSteps.toInt + s.indexSteps.toInt = v.toInt) :
    exec .getTarget s = .next (answered s 0x1C#8 .ok v) := by
  obtain ⟨-, -, -, -, -, hfits, -⟩ := positionReadersAnswer s
  have hread := hfits (h ▸ toInt_inS32 v)
  rwa [h, BitVec.ofInt_toInt] at hread

/-- Settles O13: the stored difference and the register it was taken from add up to the operand. -/
theorem coordinateRoundTrip : Obligations.CoordinateRoundTrip := by
  intro v s
  obtain ⟨hinstr, -, htarget, -⟩ := coordinateWritesStoreDifference v s
  refine ⟨fun hfits => ⟨_, hinstr hfits, fun u hmotor hindex => getInstr_answers ?_⟩,
    fun hfits => ⟨_, htarget hfits, fun u htgt hindex => getTarget_answers ?_⟩⟩
  · have hstored : u.indexSteps.toInt = v.toInt - s.motorSteps.toInt := by
      rw [hindex]
      exact toInt_wordOfInt hfits
    rw [hstored, hmotor]
    exact add_sub_cancel _ _
  · have hstored : u.targetSteps.toInt = v.toInt - s.indexSteps.toInt := by
      rw [htgt]
      exact toInt_wordOfInt hfits
    rw [hstored, hindex]
    exact sub_add_cancel _ _

end Sys2Proof.Proofs
end

section
/-! PROOFS. The backlash commands (40_position.md R117 to R119) and the commands that the mode state or an open pair refuses
(40_position.md R110, 42_mode_fsm.md R183, 43_driver.md R202). -/

namespace Sys2Proof.Proofs

open Sys2Proof Sys2Proof.Machine Sys2Proof.Safety Sys2Proof.Laws

/-! ### Both counters are checked -/

theorem chk_eq_none_of_not_both {x y : Int} (h : ¬(InS32 x ∧ InS32 y)) : chk x = none ∨ chk y = none := by
  by_cases hx : InS32 x
  · exact .inr (chk_of_not_inS32 fun hy => h ⟨hx, hy⟩)
  · exact .inl (chk_of_not_inS32 hx)

/-! ### BLDISABLE and BLENABLE -/

@[simp] theorem restoredBacklash_beginMainLoop (s : State) :
    restoredBacklash (beginMainLoop s) = restoredBacklash s := rfl

theorem blDisable_folds {s : State} (hmode : s.modeState = .tracking ∨ s.modeState = .slewingRequest)
    (hpair : s.backlashDisabled = false) (hm : InS32 (s.motorSteps.toInt + s.backlashSteps.toInt))
    (ht : InS32 (s.targetSteps.toInt + s.backlashSteps.toInt)) :
    execBlDisable s = .next (answered { s with
      motorSteps := wordOfInt (s.motorSteps.toInt + s.backlashSteps.toInt)
      targetSteps := wordOfInt (s.targetSteps.toInt + s.backlashSteps.toInt)
      savedBacklash := s.backlashSteps, backlashSteps := 0#32, backlashDisabled := true } 0x16#8 .ok 0#32) := by
  refine hostCommand_answered ((if_neg (trackingGuard_passes hmode)).trans ?_)
  simp only [beginMainLoop_backlashDisabled, beginMainLoop_motorSteps, beginMainLoop_targetSteps,
    beginMainLoop_backlashSteps, hpair, chk_of_inS32 hm, chk_of_inS32 ht]
  rfl

theorem blDisable_overflows {s : State} (hmode : s.modeState = .tracking ∨ s.modeState = .slewingRequest)
    (hpair : s.backlashDisabled = false)
    (hover : ¬(InS32 (s.motorSteps.toInt + s.backlashSteps.toInt) ∧
      InS32 (s.targetSteps.toInt + s.backlashSteps.toInt))) :
    execBlDisable s =
      .next (answered { s with faults := { s.faults with overflow := true } } 0x16#8 .fault 0#32) := by
  refine hostCommand_overflow ((if_neg (trackingGuard_passes hmode)).trans ?_)
  simp only [beginMainLoop_backlashDisabled, beginMainLoop_motorSteps, beginMainLoop_targetSteps,
    beginMainLoop_backlashSteps, hpair]
  rcases chk_eq_none_of_not_both hover with h | h <;> simp [h]

theorem blEnable_restores {s : State} (hmode : s.modeState = .tracking ∨ s.modeState = .slewingRequest)
    (hpair : s.backlashDisabled = true) (hm : InS32 (s.motorSteps.toInt - restoredBacklash s))
    (ht : InS32 (s.targetSteps.toInt - restoredBacklash s)) :
    execBlEnable s = .next (answered { s with
      motorSteps := wordOfInt (s.motorSteps.toInt - restoredBacklash s)
      targetSteps := wordOfInt (s.targetSteps.toInt - restoredBacklash s)
      backlashSteps := wordOfInt (restoredBacklash s), savedBacklash := 0#32, backlashDisabled := false }
        0x17#8 .ok 0#32) := by
  refine hostCommand_answered ((if_neg (trackingGuard_passes hmode)).trans ?_)
  simp only [beginMainLoop_backlashDisabled, beginMainLoop_motorSteps, beginMainLoop_targetSteps,
    restoredBacklash_beginMainLoop, hpair, chk_of_inS32 hm, chk_of_inS32 ht]
  rfl

theorem blEnable_overflows {s : State} (hmode : s.modeState = .tracking ∨ s.modeState = .slewingRequest)
    (hpair : s.backlashDisabled = true)
    (hover : ¬(InS32 (s.motorSteps.toInt - restoredBacklash s) ∧
      InS32 (s.targetSteps.toInt - restoredBacklash s))) :
    execBlEnable s =
      .next (answered { s with faults := { s.faults with overflow := true } } 0x17#8 .fault 0#32) := by
  refine hostCommand_overflow ((if_neg (trackingGuard_passes hmode)).trans ?_)
  simp only [beginMainLoop_backlashDisabled, beginMainLoop_motorSteps, beginMainLoop_targetSteps,
    restoredBacklash_beginMainLoop, hpair]
  rcases chk_eq_none_of_not_both hover with h | h <;> simp [h]

/-- The smaller of two words fits, whatever they are. -/
theorem restoredBacklash_inS32 (s : State) : InS32 (restoredBacklash s) := by
  unfold restoredBacklash
  rcases min_choice s.savedBacklash.toInt s.backlashAmountSteps.toInt with h | h <;> rw [h] <;> exact toInt_inS32 _

/-- While a pair is open no backlash is taken up (10_state.md R55). -/
theorem backlashSteps_of_open {s : State} (hinv : BacklashInv s) (hopen : s.backlashDisabled = true) :
    s.backlashSteps.toInt = 0 := by
  obtain ⟨hlow, hhigh, -, -⟩ := hinv
  rw [amountEff, if_pos hopen] at hhigh
  exact le_antisymm hhigh hlow

theorem toInt_wordOfInt_sub {x y : Int} (hx : InS32 x) (hy : InS32 y) :
    (wordOfInt x).toInt - (wordOfInt y).toInt = x - y := by rw [toInt_wordOfInt hx, toInt_wordOfInt hy]

theorem toInt_wordOfInt_add {x y : Int} (hx : InS32 x) (hy : InS32 y) :
    (wordOfInt x).toInt + (wordOfInt y).toInt = x + y := by rw [toInt_wordOfInt hx, toInt_wordOfInt hy]

/-- Settles O14. What the motor counter gains the backlash counter loses, and motor and target move by the same amount. -/
theorem backlashFoldAndRestore : Obligations.BacklashFoldAndRestore := by
  intro s hmode saved b ovf
  refine ⟨fun hpair hm ht => ⟨_, blDisable_folds hmode hpair hm ht, rfl, ?foldedPosition, ?foldedDistance, rfl⟩,
    fun hpair hover => blDisable_overflows hmode hpair hover,
    fun hpair hm ht => ⟨_, blEnable_restores hmode hpair hm ht, rfl, fun hinv => ?restoredPosition, ?restoredDistance⟩,
    fun hpair hover => blEnable_overflows hmode hpair hover⟩
  case foldedPosition => exact (Int.add_zero _).trans (toInt_wordOfInt hm)
  case foldedDistance => exact (toInt_wordOfInt_sub ht hm).trans (add_sub_add_right_eq_sub _ _ _)
  case restoredPosition =>
    have hnone : commandedPosition s = s.motorSteps.toInt := by
      rw [commandedPosition, backlashSteps_of_open hinv hpair, Int.add_zero]
    rw [hnone]
    exact (toInt_wordOfInt_add hm (restoredBacklash_inS32 s)).trans (sub_add_cancel _ _)
  case restoredDistance => exact (toInt_wordOfInt_sub ht hm).trans (sub_sub_sub_cancel_right _ _ _)

/-! ### SETBLAMOUNT -/

/-- Settles O15, by the three guards of the body in their order. -/
theorem setBlAmountKeepsTravelInside : Obligations.SetBlAmountKeepsTravelInside := by
  intro a s hmode
  have hguard := trackingGuard_passes hmode
  simp only [exec]
  refine ⟨fun hpos hinside => ?_, fun hneg => ?_, fun hpair hbelow => ?_⟩
  · have hnotBelow : ¬(s.backlashDisabled = false ∧ a.toInt < s.backlashSteps.toInt) := by
      rintro ⟨hpair, hbelow⟩
      rcases hinside with hopen | hle
      · simp [hpair] at hopen
      · omega
    exact hostCommand_answered ((if_neg hguard).trans ((if_neg (by omega)).trans (if_neg hnotBelow)))
  · exact hostCommand_raise ((if_neg hguard).trans (if_pos hneg))
  · refine hostCommand_raise ((if_neg hguard).trans ?_)
    by_cases hneg : a.toInt < 0
    · exact if_pos hneg
    · exact (if_neg hneg).trans (if_pos ⟨hpair, hbelow⟩)

/-! ### Refusals by state -/

/-- Settles O17: the first guard of each body that refuses, and DRVINIT by the verdict on its configuration. -/
theorem commandsAreRefusedByState : Obligations.CommandsAreRefusedByState := by
  intro v a p s
  simp only [exec]
  refine ⟨fun hmode => ?_, fun hmode => ⟨hostCommand_raise (if_pos hmode), fun hp => ?_⟩, fun hmode => ?_,
    fun hmode => ⟨fun r hverdict => ?_, fun hverdict => ?_⟩⟩
  · have hguard := trackingGuard_refuses hmode
    exact ⟨hostCommand_raise (if_pos hguard), hostCommand_raise (if_pos hguard), hostCommand_raise (if_pos hguard),
      hostCommand_raise (if_pos hguard)⟩
  · obtain ⟨id, hid⟩ := Option.isSome_iff_exists.1 (isSome_paramOfField p hp)
    refine hostCommand_raise ?_
    simp only [hid]
    exact if_pos hmode
  · have hguard := trackingGuard_passes hmode
    refine ⟨fun hopen => hostCommand_raise ((if_neg hguard).trans (if_pos hopen)),
      fun hclosed => hostCommand_raise ((if_neg hguard).trans (if_pos ?_))⟩
    simp [hclosed]
  · refine hostCommand_failed (t := { beginMainLoop s with driverReady := false })
      ((if_neg (not_not.2 hmode)).trans ?_)
    simp only [beginMainLoop_params, beginMainLoop_cfg, hverdict]
  · refine hostCommand_modelFault (f := .unmodelled) ((if_neg (not_not.2 hmode)).trans ?_)
    simp only [beginMainLoop_params, beginMainLoop_cfg, hverdict]

end Sys2Proof.Proofs
end

section
/-! PROOFS. The requested frequency (41_sequencer.md R140 to R144): the value of a binary32 pattern as the fraction that
`classify` computes with, and what SETFREQ arms. -/

namespace Sys2Proof.Proofs

open Sys2Proof Sys2Proof.Machine Sys2Proof.Safety Sys2Proof.Laws

/-! ### The exact value of a pattern -/

/-- A power of two with a signed exponent, as a fraction of two natural powers of which one is 1. -/
theorem two_zpow_natCast_sub (a b : ℕ) : (2 : ℚ) ^ ((a : ℤ) - b) = 2 ^ (a - b) / 2 ^ (b - a) := by
  rcases le_total a b with h | h
  · obtain ⟨k, rfl⟩ := Nat.exists_eq_add_of_le h
    rw [Nat.sub_eq_zero_of_le h, Nat.add_sub_cancel_left, pow_zero, one_div]
    push_cast
    rw [sub_add_cancel_left, zpow_neg, zpow_natCast]
  · obtain ⟨k, rfl⟩ := Nat.exists_eq_add_of_le h
    rw [Nat.sub_eq_zero_of_le h, Nat.add_sub_cancel_left, pow_zero, div_one]
    push_cast
    rw [add_sub_cancel_left, zpow_natCast]

/-- The fraction that `classify` computes with is the value of the pattern (41_sequencer.md R140). -/
theorem f32Magnitude_eq_div (f : Word) : f32Magnitude f = (f32Numerator f : ℚ) / (f32Denominator f : ℚ) := by
  unfold f32Magnitude f32Numerator f32Denominator f32Significand
  by_cases hsub : f32Exponent f = 0
  · simp only [hsub, if_true]
    norm_num [zpow_neg, div_eq_mul_inv]
  · have hmax : max (f32Exponent f) 1 = f32Exponent f := by omega
    have hpow := two_zpow_natCast_sub (f32Exponent f) 150
    simp only [hsub, if_false, hmax]
    push_cast at hpow ⊢
    rw [hpow, mul_div_assoc]

theorem f32Denominator_pos (f : Word) : 0 < f32Denominator f := Nat.two_pow_pos _

theorem f32Numerator_eq_zero_iff (f : Word) : f32Numerator f = 0 ↔ f32Significand f = 0 := by
  simp [f32Numerator]

theorem f32Magnitude_eq_zero_iff (f : Word) : f32Magnitude f = 0 ↔ f32Significand f = 0 := by
  rw [f32Magnitude_eq_div, ← f32Numerator_eq_zero_iff, div_eq_zero_iff, Nat.cast_eq_zero, Nat.cast_eq_zero]
  exact or_iff_left (f32Denominator_pos f).ne'

/-- The period of a pattern that is not zero, as the fraction that `classify` gives (41_sequencer.md R140). -/
theorem period_eq_div (f : Word) :
    1000000 / f32Magnitude f = ((1000000 * f32Denominator f : ℕ) : ℚ) / (f32Numerator f : ℚ) := by
  rw [f32Magnitude_eq_div]
  push_cast
  exact div_div_eq_mul_div _ _ _

/-- The test for too slow a frequency compares the exact period with PERIOD_MAX_US (41_sequencer.md R140). -/
theorem tooSlow_iff {f : Word} (hzero : f32Magnitude f ≠ 0) :
    Config.periodMaxUs * f32Numerator f < 1000000 * f32Denominator f ↔ 130000000 < 1000000 / f32Magnitude f := by
  have hnum : (0 : ℚ) < f32Numerator f := by
    rw [Nat.cast_pos, Nat.pos_iff_ne_zero, ne_eq, f32Numerator_eq_zero_iff, ← f32Magnitude_eq_zero_iff]
    exact hzero
  rw [period_eq_div, lt_div_iff₀ hnum]
  exact_mod_cast Iff.rfl

/-! ### The classification -/

theorem classify_of_not_finite {f : Word} (h : f32Exponent f = 255) : classify f = .stop :=
  if_pos (by simp [f32Finite, h])

theorem classify_of_zero {f : Word} (h : f32Magnitude f = 0) : classify f = .stop := by
  unfold classify
  rw [if_pos ((f32Magnitude_eq_zero_iff f).1 h), ite_self]

theorem classify_of_tooSlow {f : Word} (hzero : f32Magnitude f ≠ 0) (h : 130000000 < 1000000 / f32Magnitude f) :
    classify f = .stop := by
  unfold classify
  rw [if_pos ((tooSlow_iff hzero).2 h), ite_self, ite_self]

theorem classify_of_runs {f : Word} (hfinite : f32Exponent f ≠ 255) (hzero : f32Magnitude f ≠ 0)
    (h : 1000000 / f32Magnitude f ≤ 130000000) :
    classify f = .run (f32Sign f) (1000000 * f32Denominator f) (f32Numerator f) := by
  unfold classify
  rw [if_neg (by simp [f32Finite, hfinite]), if_neg (by rwa [← f32Magnitude_eq_zero_iff]),
    if_neg (by rwa [tooSlow_iff hzero, not_lt])]

/-- Settles O20: the four classes of patterns, each by the exact value. -/
theorem classifyFollowsExactFrequency : Obligations.ClassifyFollowsExactFrequency := by
  intro f
  refine ⟨classify_of_not_finite, fun _ => classify_of_zero, fun _ => classify_of_tooSlow,
    fun hfinite hzero hruns => ⟨_, _, classify_of_runs hfinite hzero hruns, ?_, (period_eq_div f).symm⟩⟩
  rwa [Nat.pos_iff_ne_zero, ne_eq, f32Numerator_eq_zero_iff, ← f32Magnitude_eq_zero_iff]

/-! ### SETFREQ -/

theorem acceptedFreq_of_stop {f : Word} (h : classify f = .stop) : acceptedFreq f = 0#32 := by
  simp [acceptedFreq, h, Freq.runs]

theorem acceptedFreq_of_run {f : Word} {d : Sign} {n m : ℕ} (h : classify f = .run d n m) : acceptedFreq f = f := by
  simp [acceptedFreq, h, Freq.runs]

/-- The multiplier of ARM depends on the handler and the configuration alone (41_sequencer.md R143). -/
theorem armMult_eq (s : State) : armMult s = if s.handler = .fast then homeSteps s else 1 := by
  cases h : s.handler <;> simp [armMult, h]

theorem waveformHalf_eq (w : Waveform) : waveformHalf w = if w = .square then 2 else 1 := by
  cases w <;> rfl

/-- ARM with a frequency that stops (41_sequencer.md R143, R144). -/
theorem arm_of_stop {s : State} (h : classify s.freqBits = .stop) :
    arm s = .ok (armStep { s with
      graceTick := s.graceTick || s.timerRunning, timerRunning := false, periodSub := 0 } .zero) := by
  simp only [arm, h]

/-- ARM with a frequency that runs, and timer parameters in their domain (41_sequencer.md R143). -/
theorem arm_of_run {s : State} {d : Sign} {n m : ℕ} (h : classify s.freqBits = .run d n m)
    (hp : timerParamsOk s.params = true) :
    arm s = .ok (armStep { s with
      periodSub := periodOf s.params n m (armMult s), timerRunning := true, graceTick := false } d) := by
  simp only [arm, h, hp, if_true]

theorem arm_of_badTimerParams {s : State} {d : Sign} {n m : ℕ} (h : classify s.freqBits = .run d n m)
    (hp : timerParamsOk s.params = false) : arm s = .error .unmodelled := by
  simp [arm, h, hp]

theorem timerParamsOk_iff (p : Params) : timerParamsOk p = true ↔ 1 ≤ p.kSub ∧ 1 ≤ p.periodMinSub := by
  simp [timerParamsOk]

/-- A frequency that stops asks for a step of 0, whatever the multiplier (41_sequencer.md R143). -/
theorem armStep_zero_eq (s : State) :
    armStep s .zero = { s with
      dirLatch := .zero
      rearm := s.rearm || decide (s.dirLatch ≠ .zero)
      step := if s.dirLatch = .zero ∧ s.rearm = true then s.step else 0#32
      pendingStep := if s.dirLatch ≠ .zero ∨ s.rearm = true then 0#32 else s.pendingStep } := by
  have hstep : wordOfInt (Sign.zero.toInt * armMult s) = 0#32 := by simp [Sign.toInt, wordOfInt]
  rw [armStep_eq, hstep]
  by_cases hd : s.dirLatch = .zero <;> simp [hd]

/-- SETFREQ where ARM completes. -/
theorem execSetFreq_of_arm_ok {f : Word} {s t : State}
    (h : arm { beginMainLoop s with freqBits := acceptedFreq f } = .ok t) :
    execSetFreq f s = .next (respond t 0x30#8 .ok 0#32) :=
  hostCommand_done (by simp only [h])

/-- SETFREQ where ARM raises a model fault (60_exceptions.md R286). -/
theorem execSetFreq_of_arm_error {f : Word} {s : State} {e : ModelFault}
    (h : arm { beginMainLoop s with freqBits := acceptedFreq f } = .error e) :
    execSetFreq f s = .next (answered { s with faults := s.faults.insert e } 0x30#8 .fault 0#32) :=
  hostCommand_modelFault (by simp only [h])

/-- Settles O22, by the three ends of ARM. -/
theorem setFreqArmsTimer : Obligations.SetFreqArmsTimer := by
  intro f s
  simp only [exec]
  refine ⟨fun hstop => ?_, fun d n m hrun hk hmin => ?_, fun d n m hrun hbad => ?_⟩
  · have hfreq := acceptedFreq_of_stop hstop
    rw [execSetFreq_of_arm_ok (arm_of_stop (by rw [hfreq, classify_zero])), hfreq, armStep_zero_eq]
    rfl
  · have hfreq := acceptedFreq_of_run hrun
    rw [execSetFreq_of_arm_ok (arm_of_run (by rwa [hfreq]) ((timerParamsOk_iff _).2 ⟨hk, hmin⟩)), hfreq, armStep_eq,
      armMult_eq, armMult_eq, periodOf, waveformHalf_eq]
    rfl
  · have hparams : timerParamsOk s.params = false := by rwa [← Bool.not_eq_true, timerParamsOk_iff]
    exact execSetFreq_of_arm_error (arm_of_badTimerParams (by rwa [acceptedFreq_of_run hrun]) hparams)

/-- GETFREQ reads the accepted pattern (41_sequencer.md R145). -/
theorem execGetFreq_answers (s : State) : execGetFreq s = .next (answered s 0x31#8 .ok s.freqBits) :=
  hostCommand_answered rfl

/-- Settles O21: the pattern classifies as STOP, for which SETFREQ keeps 0. -/
theorem tooSlowFrequencyReadsZero : Obligations.TooSlowFrequencyReadsZero :=
  fun _ s _ hzero hslow => ⟨_, (setFreqArmsTimer _ s).1 (classify_of_tooSlow hzero hslow), execGetFreq_answers _⟩

end Sys2Proof.Proofs
end

section
/-! PROOFS. The tick handlers (41_sequencer.md R147 to R152): what each branch of a handler gives, and from these the whole
next state of one tick in each of its cases. -/

namespace Sys2Proof.Proofs

open Sys2Proof Sys2Proof.Machine Sys2Proof.Safety Sys2Proof.Laws

/-! ### The tick runs the installed handler -/

theorem tickEnabled_iff {s : State} : tickEnabled s = true ↔ s.timerRunning = true ∨ s.graceTick = true := by
  simp [tickEnabled]

/-- The state that the handler runs in: the grace tick is spent unless the timer runs (41_sequencer.md R147). -/
abbrev graceSpent (s : State) : State := { s with graceTick := s.graceTick && s.timerRunning }

/-- A tick that T can take ends as its handler does (41_sequencer.md R147, 60_exceptions.md R286). -/
theorem takeTick_eq_orFault {s : State} (he : s.timerRunning = true ∨ s.graceTick = true) :
    takeTick s = orFault s (runHandler (graceSpent s)) := by
  rcases takeTick_cases s with ⟨hoff, -⟩ | ⟨-, f, hr, e⟩ | ⟨-, t, hr, e⟩
  · rw [tickEnabled_iff.2 he] at hoff
    cases hoff
  · rw [spendGrace_eq] at hr
    rw [e, hr]
    rfl
  · rw [spendGrace_eq] at hr
    rw [e, hr]
    rfl

theorem execEvTickStd_of_handler {s : State} {r : Except ModelFault State} (hh : s.handler = .standard)
    (he : s.timerRunning = true ∨ s.graceTick = true) (h : stdTick (graceSpent s) = r) :
    execEvTickStd s = .next (orFault s r) := by
  rw [execEvTickStd, if_pos hh, takeTick_eq_orFault he, ← h]
  simp only [runHandler, hh]

theorem execEvTickFast_of_handler {s : State} {r : Except ModelFault State} (hh : s.handler = .fast)
    (he : s.timerRunning = true ∨ s.graceTick = true) (h : fastTick (graceSpent s) = r) :
    execEvTickFast s = .next (orFault s r) := by
  rw [execEvTickFast, if_pos hh, takeTick_eq_orFault he, ← h]
  simp only [runHandler, hh]

/-! ### The handlers, case by case -/

theorem gateOpen_iff {s : State} : gateOpen s = true ↔ s.modeState = .slewingRequest ∧ atBoundary s = true := by
  simp [gateOpen]

theorem stdTick_of_gate {s : State} (h : gateOpen s = true) :
    stdTick s = .ok { s with modeState := .slewingPause, modeReq := true } := by
  simp only [stdTick, h, if_true]

theorem stdTick_of_idle {s : State} (hgate : gateOpen s = false)
    (h : (trackingModes s.modeState && s.enabled) = false) : stdTick s = .ok s := by
  simp [stdTick, hgate, h]

/-- A standard tick that works: the target advances, the motor or the backlash moves, the re-arm is consumed
(41_sequencer.md R148). -/
theorem stdTick_of_move {s u v : State} (hgate : gateOpen s = false) (hmode : trackingModes s.modeState = true)
    (hon : s.enabled = true) (hu : autoAdvance s (!inBacklash s) = some u) (hv : stdMove u = some v) :
    stdTick s = .ok (consumeRearm v) := by
  simp [stdTick, hgate, hmode, hon, hu, hv]

theorem stdTick_of_overflow {s : State} (hgate : gateOpen s = false) (hmode : trackingModes s.modeState = true)
    (hon : s.enabled = true) (hu : autoAdvance s (!inBacklash s) = none) : stdTick s = .error .overflow := by
  simp [stdTick, hgate, hmode, hon, hu]

theorem fastTick_of_idle {s : State} (h : s.modeState ≠ .slewing ∨ s.enabled = false) : fastTick s = .ok s := by
  unfold fastTick
  rcases h with h | h <;> simp [h]

/-- A fast tick that works (41_sequencer.md R152). -/
theorem fastTick_of_move {s u v : State} (hmode : s.modeState = .slewing) (hon : s.enabled = true)
    (hu : autoAdvance s true = some u) (hv : fastMove u = some v) : fastTick s = .ok (consumeRearm v) := by
  simp [fastTick, hmode, hon, hu, hv]

theorem fastTick_of_overflow {s : State} (hmode : s.modeState = .slewing) (hon : s.enabled = true)
    (hu : autoAdvance s true = none) : fastTick s = .error .overflow := by
  simp [fastTick, hmode, hon, hu]

/-! ### The advance and the moves -/

/-- The target after the auto-advance, before the range check (41_sequencer.md R148, R152). -/
def advancedTarget (s : State) (allowed : Bool) : Int :=
  if s.synchronized && allowed then s.targetSteps.toInt + s.step.toInt else s.targetSteps.toInt

theorem autoAdvance_eq (s : State) (allowed : Bool) :
    autoAdvance s allowed = (chk (advancedTarget s allowed)).map fun g => { s with targetSteps := g } := by
  unfold autoAdvance advancedTarget
  split
  · rfl
  · rw [chk_toInt]
    rfl

theorem autoAdvance_of_inS32 {s : State} {allowed : Bool} (h : InS32 (advancedTarget s allowed)) :
    autoAdvance s allowed = some { s with targetSteps := wordOfInt (advancedTarget s allowed) } := by
  rw [autoAdvance_eq, chk_of_inS32 h]
  rfl

theorem autoAdvance_of_not_inS32 {s : State} {allowed : Bool} (h : ¬InS32 (advancedTarget s allowed)) :
    autoAdvance s allowed = none := by
  rw [autoAdvance_eq, chk_of_not_inS32 h]
  rfl

/-- Behind the motor with backlash taken up: one step of it is released (41_sequencer.md R148). -/
theorem stdMove_releases {s : State} (hgoal : s.targetSteps.toInt < s.motorSteps.toInt)
    (hb : 0 < s.backlashSteps.toInt) :
    stdMove s = some { s with
      backlashSteps := wordOfInt (s.backlashSteps.toInt - 1), dir := .rev
      history := s.history ++ stepEvents s .rev } := by
  rw [stdMove, if_pos hgoal, if_pos hb, pulseIn_eq]
  rfl

/-- Behind the motor without backlash: one step back, which cannot overflow. -/
theorem stdMove_back {s : State} (hgoal : s.targetSteps.toInt < s.motorSteps.toInt)
    (hb : s.backlashSteps.toInt ≤ 0) :
    stdMove s = some { s with
      motorSteps := wordOfInt (s.motorSteps.toInt - 1), dir := .rev
      history := s.history ++ stepEvents s .rev } := by
  obtain ⟨hlow, -⟩ := toInt_inS32 s.targetSteps
  obtain ⟨-, hhigh⟩ := toInt_inS32 s.motorSteps
  rw [stdMove, if_pos hgoal, if_neg (by omega), chk_of_inS32 ⟨by omega, by omega⟩, Option.map_some, pulseIn_eq]
  rfl

/-- Ahead of the motor with travel left: one step of backlash is taken up (41_sequencer.md R148). -/
theorem stdMove_takesUp {s : State} (hgoal : s.motorSteps.toInt < s.targetSteps.toInt)
    (hb : s.backlashSteps.toInt < amountEff s) :
    stdMove s = some { s with
      backlashSteps := wordOfInt (s.backlashSteps.toInt + 1), dir := .fwd
      history := s.history ++ stepEvents s .fwd } := by
  rw [stdMove, if_neg (by omega), if_pos hgoal, if_pos hb, pulseIn_eq]
  rfl

/-- Ahead of the motor with the travel used up: one step forward, which cannot overflow. -/
theorem stdMove_forward {s : State} (hgoal : s.motorSteps.toInt < s.targetSteps.toInt)
    (hb : amountEff s ≤ s.backlashSteps.toInt) :
    stdMove s = some { s with
      motorSteps := wordOfInt (s.motorSteps.toInt + 1), dir := .fwd
      history := s.history ++ stepEvents s .fwd } := by
  obtain ⟨-, hhigh⟩ := toInt_inS32 s.targetSteps
  obtain ⟨hlow, -⟩ := toInt_inS32 s.motorSteps
  rw [stdMove, if_neg (by omega), if_pos hgoal, if_neg (by omega), chk_of_inS32 ⟨by omega, by omega⟩, Option.map_some,
    pulseIn_eq]
  rfl

theorem stdMove_stands {s : State} (hgoal : s.motorSteps.toInt = s.targetSteps.toInt) : stdMove s = some s := by
  rw [stdMove, if_neg (by omega), if_neg (by omega)]

/-- A slewing step forward stops short of the target at the latest, so it cannot overflow. -/
theorem fastMove_forward {s : State} (hhome : 1 ≤ homeSteps s) (hdir : s.dir = .fwd)
    (hleft : homeSteps s ≤ s.targetSteps.toInt - s.motorSteps.toInt) :
    fastMove s = some { s with
      motorSteps := wordOfInt (s.motorSteps.toInt + homeSteps s), history := s.history ++ [.pulse .fwd] } := by
  obtain ⟨-, hhigh⟩ := toInt_inS32 s.targetSteps
  obtain ⟨hlow, -⟩ := toInt_inS32 s.motorSteps
  rw [fastMove, if_pos ⟨hdir, hleft⟩, chk_of_inS32 ⟨by omega, by omega⟩]
  rfl

theorem fastMove_back {s : State} (hhome : 1 ≤ homeSteps s) (hdir : s.dir = .rev)
    (hleft : homeSteps s ≤ s.motorSteps.toInt - s.targetSteps.toInt) :
    fastMove s = some { s with
      motorSteps := wordOfInt (s.motorSteps.toInt - homeSteps s), history := s.history ++ [.pulse .rev] } := by
  obtain ⟨hlow, -⟩ := toInt_inS32 s.targetSteps
  obtain ⟨-, hhigh⟩ := toInt_inS32 s.motorSteps
  rw [fastMove, if_neg (by simp [hdir]), if_pos ⟨hdir, hleft⟩, chk_of_inS32 ⟨by omega, by omega⟩]
  rfl

theorem fastMove_stands {s : State}
    (hfwd : ¬(s.dir = .fwd ∧ homeSteps s ≤ s.targetSteps.toInt - s.motorSteps.toInt))
    (hrev : ¬(s.dir = .rev ∧ homeSteps s ≤ s.motorSteps.toInt - s.targetSteps.toInt)) : fastMove s = some s := by
  rw [fastMove, if_neg hfwd, if_neg hrev]

/-! ### The results of a tick -/

/-- Settles O24, by the first two branches of the handler. -/
theorem standardTickGateAndIdle : Obligations.StandardTickGateAndIdle := by
  intro s hh he grace
  simp only [exec]
  refine ⟨fun hmode hbound => execEvTickStd_of_handler hh he (stdTick_of_gate (gateOpen_iff.2 ⟨hmode, hbound⟩)),
    fun hidle => execEvTickStd_of_handler hh he (stdTick_of_idle ?_ ?_)⟩
  · rw [← Bool.not_eq_true, gateOpen_iff]
    rcases hidle with hmode | ⟨-, hgate⟩
    · exact fun hgate => hmode (.inr hgate.1)
    · exact hgate
  · rw [Bool.and_eq_false_iff, ← Bool.not_eq_true, trackingModes_iff]
    exact hidle.imp_right And.left

/-- Settles O25: the target advances within range or overflows, and then one of the five moves. -/
theorem standardTickSteps : Obligations.StandardTickSteps := by
  intro s hh he hon hmode goal t
  have hgate : gateOpen (graceSpent s) = false := by
    rw [← Bool.not_eq_true, gateOpen_iff]
    rintro ⟨hm, hb⟩
    rcases hmode with hm' | ⟨-, hb'⟩
    · cases hm'.symm.trans hm
    · exact Bool.false_ne_true (hb'.symm.trans hb)
  have htrack : trackingModes s.modeState = true := trackingModes_iff.2 (hmode.imp_right And.left)
  have hgoal : advancedTarget (graceSpent s) (!inBacklash (graceSpent s)) = goal := by
    unfold advancedTarget
    simp only [Bool.and_eq_true, Bool.not_eq_true']
    rfl
  simp only [exec]
  refine ⟨fun hfits => ?_, fun hover => execEvTickStd_of_handler hh he
    (stdTick_of_overflow hgate htrack hon (autoAdvance_of_not_inS32 (by rwa [hgoal])))⟩
  have hadvance := autoAdvance_of_inS32 (s := graceSpent s) (allowed := !inBacklash (graceSpent s)) (by rwa [hgoal])
  rw [hgoal] at hadvance
  have hstored : (wordOfInt goal).toInt = goal := toInt_wordOfInt hfits
  have hmove : ∀ {v}, stdMove { graceSpent s with targetSteps := wordOfInt goal } = some v →
      execEvTickStd s = .next { v with step := if v.rearm = true then v.pendingStep else v.step, rearm := false } := by
    intro v hv
    rw [← consumeRearm_eq]
    exact execEvTickStd_of_handler hh he (stdTick_of_move hgate htrack hon hadvance hv)
  refine ⟨fun hg hb => hmove (stdMove_releases ?_ hb), fun hg hb => hmove (stdMove_back ?_ hb),
    fun hg hb => hmove (stdMove_takesUp ?_ hb), fun hg hb => hmove (stdMove_forward ?_ hb),
    fun hg => hmove (stdMove_stands ?_)⟩ <;> rwa [hstored]

/-- Settles O26: idle, or the target advances within range or overflows, and then one of the three moves. -/
theorem fastTickSteps : Obligations.FastTickSteps := by
  intro s hh he grace goal t left
  have hgoal : advancedTarget (graceSpent s) true = goal := by
    unfold advancedTarget
    simp only [Bool.and_true]
    rfl
  simp only [exec]
  refine ⟨fun hidle => execEvTickFast_of_handler hh he (fastTick_of_idle hidle), fun hmode hon =>
    ⟨fun hover => execEvTickFast_of_handler hh he
      (fastTick_of_overflow hmode hon (autoAdvance_of_not_inS32 (by rwa [hgoal]))), fun hfits hhome => ?_⟩⟩
  have hadvance := autoAdvance_of_inS32 (s := graceSpent s) (allowed := true) (by rwa [hgoal])
  rw [hgoal] at hadvance
  have hstored : (wordOfInt goal).toInt = goal := toInt_wordOfInt hfits
  have hmove : ∀ {v}, fastMove { graceSpent s with targetSteps := wordOfInt goal } = some v →
      execEvTickFast s = .next { v with step := if v.rearm = true then v.pendingStep else v.step, rearm := false } := by
    intro v hv
    rw [← consumeRearm_eq]
    exact execEvTickFast_of_handler hh he (fastTick_of_move hmode hon hadvance hv)
  have hright : -left = s.motorSteps.toInt - goal := neg_sub _ _
  rw [hright]
  refine ⟨fun hdir hleft => hmove (fastMove_forward hhome hdir ?_),
    fun hdir hleft => hmove (fastMove_back hhome hdir ?_), fun hfwd hrev => hmove (fastMove_stands ?_ ?_)⟩ <;> rwa [hstored]

end Sys2Proof.Proofs
end

section
/-! PROOFS. What one tick may do to the position and the history (41_sequencer.md R153, R154), and the grace tick
(41_sequencer.md R144, R147): one lemma per handler says how far a tick moves and which events it causes. -/

namespace Sys2Proof.Proofs

open Sys2Proof Sys2Proof.Machine Sys2Proof.Safety Sys2Proof.Laws

/-! ### How far a tick moves -/

/-- From `s` to `t` the motor moves by `dm` and the backlash by `db`, with the events `evs`. -/
def Moved (s t : State) (dm db : Int) (evs : List Event) : Prop :=
  t.motorSteps.toInt = s.motorSteps.toInt + dm ∧ t.backlashSteps.toInt = s.backlashSteps.toInt + db ∧
    t.history = s.history ++ evs

/-- Nothing moved, whatever happened to the other registers. -/
theorem moved_none {s t : State} (hm : t.motorSteps = s.motorSteps) (hb : t.backlashSteps = s.backlashSteps)
    (hh : t.history = s.history) : Moved s t 0 0 [] :=
  ⟨by rw [hm, Int.add_zero], by rw [hb, Int.add_zero], by rw [hh, List.append_nil]⟩

theorem moved_motor {s t : State} {dm : Int} {evs : List Event} (hfits : InS32 (s.motorSteps.toInt + dm))
    (hm : t.motorSteps = wordOfInt (s.motorSteps.toInt + dm)) (hb : t.backlashSteps = s.backlashSteps)
    (hh : t.history = s.history ++ evs) : Moved s t dm 0 evs :=
  ⟨by rw [hm, toInt_wordOfInt hfits], by rw [hb, Int.add_zero], hh⟩

theorem moved_backlash {s t : State} {db : Int} {evs : List Event} (hfits : InS32 (s.backlashSteps.toInt + db))
    (hb : t.backlashSteps = wordOfInt (s.backlashSteps.toInt + db)) (hm : t.motorSteps = s.motorSteps)
    (hh : t.history = s.history ++ evs) : Moved s t 0 db evs :=
  ⟨by rw [hm, Int.add_zero], by rw [hb, toInt_wordOfInt hfits], hh⟩

/-- The counters stand exactly when both moved by 0. -/
theorem Moved.stands_iff {s t : State} {dm db : Int} {evs : List Event} (h : Moved s t dm db evs) :
    t.motorSteps = s.motorSteps ∧ t.backlashSteps = s.backlashSteps ↔ dm = 0 ∧ db = 0 := by
  obtain ⟨hm, hb, -⟩ := h
  rw [← BitVec.toInt_inj, ← BitVec.toInt_inj, hm, hb]
  omega

/-- The moves of a working standard tick: one step of the motor, or one of the backlash inside its travel
(41_sequencer.md R148). -/
def StandardMove (s t : State) : Prop :=
  Moved s t 0 0 [] ∨ Moved s t (-1) 0 (stepEvents s .rev) ∨ Moved s t 1 0 (stepEvents s .fwd) ∨
    (0 < s.backlashSteps.toInt ∧ Moved s t 0 (-1) (stepEvents s .rev)) ∨
    (s.backlashSteps.toInt < amountEff s ∧ Moved s t 0 1 (stepEvents s .fwd))

/-- The moves of a working fast tick: the ratio in the latched direction, or none (41_sequencer.md R152). -/
def FastMove (s t : State) : Prop :=
  Moved s t 0 0 [] ∨ Moved s t (homeSteps s) 0 [.pulse .fwd] ∨ Moved s t (-homeSteps s) 0 [.pulse .rev]

theorem amountEff_inS32 (s : State) : InS32 (amountEff s) := by
  unfold amountEff
  split
  · decide
  · exact toInt_inS32 _

theorem stdMotion_moves {s u v : State} {a : Bool} (hu : autoAdvance s a = some u) (hv : stdMove u = some v) :
    StandardMove s (consumeRearm v) := by
  obtain ⟨hlow, hhigh⟩ := toInt_inS32 s.backlashSteps
  obtain ⟨-, hmax⟩ := amountEff_inS32 s
  obtain ⟨g, rfl⟩ : ∃ g, u = { s with targetSteps := g } := by
    rcases autoAdvance_eq_some hu with ⟨-, -, -, rfl⟩ | ⟨-, rfl⟩ <;> exact ⟨_, rfl⟩
  rw [consumeRearm_eq]
  rcases stdMove_eq_some hv with ⟨-, hb, rfl⟩ | ⟨-, -, hfits, rfl⟩ | ⟨-, hb, rfl⟩ | ⟨-, -, hfits, rfl⟩ | ⟨-, rfl⟩
  · have hpos : 0 < s.backlashSteps.toInt := hb
    exact .inr (.inr (.inr (.inl ⟨hpos, moved_backlash ⟨by omega, by omega⟩ rfl rfl rfl⟩)))
  · exact .inr (.inl (moved_motor hfits rfl rfl rfl))
  · have hless : s.backlashSteps.toInt < amountEff s := hb
    exact .inr (.inr (.inr (.inr ⟨hless, moved_backlash ⟨by omega, by omega⟩ rfl rfl rfl⟩)))
  · exact .inr (.inr (.inl (moved_motor hfits rfl rfl rfl)))
  · exact .inl (moved_none rfl rfl rfl)

theorem fastMotion_moves {s u v : State} {a : Bool} (hu : autoAdvance s a = some u) (hv : fastMove u = some v) :
    FastMove s (consumeRearm v) := by
  obtain ⟨g, rfl⟩ : ∃ g, u = { s with targetSteps := g } := by
    rcases autoAdvance_eq_some hu with ⟨-, -, -, rfl⟩ | ⟨-, rfl⟩ <;> exact ⟨_, rfl⟩
  rw [consumeRearm_eq]
  rcases fastMove_eq_some hv with ⟨-, -, hfits, rfl⟩ | ⟨-, -, hfits, rfl⟩ | ⟨-, -, rfl⟩
  · exact .inr (.inl (moved_motor hfits rfl rfl rfl))
  · exact .inr (.inr (moved_motor hfits rfl rfl rfl))
  · exact .inl (moved_none rfl rfl rfl)

/-- A tick of the standard handler moves nothing, or works (41_sequencer.md R147, R148). -/
theorem takeTick_standard_moves {s : State} (hh : s.handler = .standard) :
    Moved s (takeTick s) 0 0 [] ∨
      (trackingModes s.modeState = true ∧ s.enabled = true ∧ StandardMove s (takeTick s)) := by
  rcases takeTick_cases s with ⟨-, e⟩ | ⟨-, f, -, e⟩ | ⟨-, t, hr, e⟩ <;> rw [e]
  · exact .inl (moved_none rfl rfl rfl)
  · exact .inl (moved_none rfl rfl rfl)
  · rw [spendGrace_eq] at hr
    simp only [runHandler, hh] at hr
    rcases stdTick_eq_ok hr with ⟨-, rfl⟩ | ⟨-, -, rfl⟩ | ⟨-, hmode, hon, u, v, hu, hv, rfl⟩
    · exact .inl (moved_none rfl rfl rfl)
    · exact .inl (moved_none rfl rfl rfl)
    · have hmoves := stdMotion_moves hu hv
      exact .inr ⟨hmode, hon, hmoves⟩

/-- A tick of the fast handler moves nothing, or works (41_sequencer.md R147, R152). -/
theorem takeTick_fast_moves {s : State} (hh : s.handler = .fast) :
    Moved s (takeTick s) 0 0 [] ∨ (s.modeState = .slewing ∧ s.enabled = true ∧ FastMove s (takeTick s)) := by
  rcases takeTick_cases s with ⟨-, e⟩ | ⟨-, f, -, e⟩ | ⟨-, t, hr, e⟩ <;> rw [e]
  · exact .inl (moved_none rfl rfl rfl)
  · exact .inl (moved_none rfl rfl rfl)
  · rw [spendGrace_eq] at hr
    simp only [runHandler, hh] at hr
    rcases fastTick_eq_ok hr with ⟨-, rfl⟩ | ⟨hmode, hon, u, v, hu, hv, rfl⟩
    · exact .inl (moved_none rfl rfl rfl)
    · have hmoves := fastMotion_moves hu hv
      exact .inr ⟨hmode, hon, hmoves⟩

/-- The event of a standard tick: with the other handler installed it is no step (log 7). -/
theorem evTickStd_moves {s t : State} (h : exec .evTickStd s = .next t) :
    Moved s t 0 0 [] ∨ (trackingModes s.modeState = true ∧ s.enabled = true ∧ StandardMove s t) := by
  cases h
  by_cases hh : s.handler = .standard
  · rw [if_pos hh]
    exact takeTick_standard_moves hh
  · rw [if_neg hh]
    exact .inl (moved_none rfl rfl rfl)

theorem evTickFast_moves {s t : State} (h : exec .evTickFast s = .next t) :
    Moved s t 0 0 [] ∨ (s.modeState = .slewing ∧ s.enabled = true ∧ FastMove s t) := by
  cases h
  by_cases hh : s.handler = .fast
  · rw [if_pos hh]
    exact takeTick_fast_moves hh
  · rw [if_neg hh]
    exact .inl (moved_none rfl rfl rfl)

/-- A tick leaves the backlash travel in effect (10_state.md R29). -/
theorem evTickStd_amountEff {s t : State} (h : exec .evTickStd s = .next t) : amountEff t = amountEff s := by
  obtain ⟨hframe, -⟩ := ticksLeaveDriverStateAlone .evTickStd s t (.inl rfl) h
  rw [hframe]
  rfl

/-- Settles O27, by the moves of each handler. -/
theorem tickPositionInvariant : Obligations.TickPositionInvariant := by
  refine fun s t => ⟨fun h => ?_, fun h => ?_⟩
  · rw [evTickStd_amountEff h, commandedPosition, commandedPosition, abs_le]
    rcases evTickStd_moves h with ⟨hm, hb, -⟩ | ⟨-, -, ⟨hm, hb, -⟩ | ⟨hm, hb, -⟩ | ⟨hm, hb, -⟩ | ⟨hpos, hm, hb, -⟩ |
      ⟨hless, hm, hb, -⟩⟩ <;> omega
  · rw [← BitVec.toInt_inj]
    rcases evTickFast_moves h with ⟨hm, hb, -⟩ | ⟨-, -, ⟨hm, hb, -⟩ | ⟨hm, hb, -⟩ | ⟨hm, hb, -⟩⟩ <;> omega

/-! ### Pulses -/

theorem pulses_stepEvents (s : State) (d : Dir) : ((stepEvents s d).filter isPulse).length = 1 := by
  unfold stepEvents
  split <;> rfl

theorem pulses_pulse (d : Dir) : ([Event.pulse d].filter isPulse).length = 1 := rfl

/-- From `s` to `t` the history grows by one pulse exactly when a counter changed, and by nothing in an idle tick
(41_sequencer.md R154). -/
def PulsesOnMove (idle : Prop) (s t : State) : Prop :=
  ∃ evs, t.history = s.history ++ evs ∧
    (evs.filter isPulse).length = (if t.motorSteps = s.motorSteps ∧ t.backlashSteps = s.backlashSteps then 0 else 1) ∧
    (idle → evs = [])

theorem Moved.pulsesOnMove {s t : State} {dm db : Int} {evs : List Event} {idle : Prop} (h : Moved s t dm db evs)
    (hpulses : (evs.filter isPulse).length = if dm = 0 ∧ db = 0 then 0 else 1) (hidle : idle → evs = []) :
    PulsesOnMove idle s t := by
  have hstands := h.stands_iff
  obtain ⟨-, -, hhist⟩ := h
  exact ⟨evs, hhist, by simp only [hstands, hpulses], hidle⟩

theorem StandardMove.pulsesOnMove {s t : State} {idle : Prop} (h : StandardMove s t) (hidle : ¬idle) :
    PulsesOnMove idle s t := by
  have hnone : ∀ {evs : List Event}, idle → evs = [] := fun hi => absurd hi hidle
  rcases h with h | h | h | ⟨-, h⟩ | ⟨-, h⟩
  · exact h.pulsesOnMove rfl hnone
  all_goals exact h.pulsesOnMove (pulses_stepEvents _ _) hnone

/-- A ratio of 0 would pulse without a move. -/
theorem FastMove.pulsesOnMove {s t : State} {idle : Prop} (h : FastMove s t) (hhome : homeSteps s ≠ 0) (hidle : ¬idle) :
    PulsesOnMove idle s t := by
  have hnone : ∀ {evs : List Event}, idle → evs = [] := fun hi => absurd hi hidle
  rcases h with h | h | h
  · exact h.pulsesOnMove rfl hnone
  · exact h.pulsesOnMove (by simp [hhome, pulses_pulse]) hnone
  · exact h.pulsesOnMove (by simp [hhome, pulses_pulse]) hnone

/-- Settles O28: a tick that moves nothing causes no event, and one that works was not idle. -/
theorem onePulsePerPositionChange : Obligations.OnePulsePerPositionChange := by
  rintro i s t (rfl | rfl) ⟨-, hratio⟩ h
  · rcases evTickStd_moves h with hnone | ⟨hmode, hon, hmove⟩
    · exact hnone.pulsesOnMove rfl fun _ => rfl
    · exact hmove.pulsesOnMove (by simp [hon, ← trackingModes_iff, hmode])
  · rcases evTickFast_moves h with hnone | ⟨hmode, hon, hmove⟩
    · exact hnone.pulsesOnMove rfl fun _ => rfl
    · obtain ⟨hhome, -⟩ := hratio (by simp [hmode])
      exact hmove.pulsesOnMove (by omega) (by simp [hon, hmode])

/-! ### The grace tick -/

/-- A tick with the timer stopped and no grace tick pending is no step of T (41_sequencer.md R147, log 7). -/
theorem takeTick_of_disabled {s : State} (hrun : s.timerRunning = false) (hgrace : s.graceTick = false) :
    takeTick s = s := by
  unfold takeTick
  rw [if_neg]
  simp [tickEnabled, hrun, hgrace]

theorem stdTick_error {s : State} {f : ModelFault} (h : stdTick s = .error f) : f = .overflow := by
  unfold stdTick at h
  split at h
  · cases h
  · split at h
    · cases h
    · split at h <;> cases h
      rfl

theorem fastTick_error {s : State} {f : ModelFault} (h : fastTick s = .error f) : f = .overflow := by
  unfold fastTick at h
  split at h
  · cases h
  · split at h <;> cases h
    rfl

/-- Of the model faults a handler raises the overflow alone (41_sequencer.md R148, R152). -/
theorem runHandler_error {s : State} {f : ModelFault} (h : runHandler s = .error f) : f = .overflow := by
  unfold runHandler at h
  split at h
  · exact stdTick_error h
  · exact fastTick_error h

/-- A handler leaves the timer and the grace tick alone. -/
theorem runHandler_timer {s t : State} (h : runHandler s = .ok t) :
    t.timerRunning = s.timerRunning ∧ t.graceTick = s.graceTick := by
  cases hh : s.handler <;> simp only [runHandler, hh] at h
  · rcases stdTick_eq_ok h with ⟨-, rfl⟩ | ⟨-, -, rfl⟩ | ⟨-, -, -, u, v, hu, hv, rfl⟩
    · exact ⟨rfl, rfl⟩
    · exact ⟨rfl, rfl⟩
    · obtain ⟨_, _, _, _, _, -, e⟩ := stdMotion_frame hu hv rfl
      rw [e]
      exact ⟨rfl, rfl⟩
  · rcases fastTick_eq_ok h with ⟨-, rfl⟩ | ⟨-, -, u, v, hu, hv, rfl⟩
    · exact ⟨rfl, rfl⟩
    · obtain ⟨_, _, _, -, e⟩ := fastMotion_frame hu hv rfl
      rw [e]
      exact ⟨rfl, rfl⟩

/-- A tick with the timer stopped spends the grace tick, unless it raises the overflow (41_sequencer.md R144, R147). -/
theorem takeTick_spends_grace {s : State} (hrun : s.timerRunning = false) (hgrace : s.graceTick = true) :
    takeTick s = addFault s .overflow ∨ ((takeTick s).timerRunning = false ∧ (takeTick s).graceTick = false) := by
  rcases takeTick_cases s with ⟨he, -⟩ | ⟨-, f, hr, e⟩ | ⟨-, t, hr, e⟩
  · simp [tickEnabled, hgrace] at he
  · rw [e, runHandler_error hr]
    exact .inl rfl
  · obtain ⟨htimer, hleft⟩ := runHandler_timer hr
    rw [e, htimer, hleft, spendGrace_eq]
    simp [hrun]

/-- The tick event of the installed handler is always a step of `takeTick`. -/
theorem exec_tickInstr (s : State) : exec (tickInstr s) s = .next (takeTick s) := by
  cases hh : s.handler <;> simp [tickInstr, exec, execEvTickStd, execEvTickFast, hh]

theorem exec_ticks_of_disabled {s : State} (hrun : s.timerRunning = false) (hgrace : s.graceTick = false) :
    exec .evTickStd s = .next s ∧ exec .evTickFast s = .next s := by
  simp only [exec, execEvTickStd, execEvTickFast, takeTick_of_disabled hrun hgrace, ite_self, and_self]

/-- Settles O30: the one tick that T can take spends the grace tick. -/
theorem graceTickComesOnce : Obligations.GraceTickComesOnce := by
  refine fun s => ⟨exec_ticks_of_disabled, fun hh => ?_, fun hh => ?_, fun t hrun hgrace hno h hfaults => ?_⟩
  · simp [exec, execEvTickStd, hh]
  · simp [exec, execEvTickFast, hh]
  · rw [exec_tickInstr] at h
    cases h
    rcases takeTick_spends_grace hrun hgrace with hover | ⟨hrun', hgrace'⟩
    · have hraised : (addFault s .overflow).faults.overflow = s.faults.overflow := by rw [← hover, hfaults]
      cases hraised.trans hno
    · exact ⟨hgrace', exec_ticks_of_disabled hrun' hgrace'⟩

end Sys2Proof.Proofs
end

section
/-! PROOFS. The EN pin (41_sequencer.md R146, 43_driver.md R210, R218) and the commands that store a hint or only read
(41_sequencer.md R145, 42_mode_fsm.md R171 to R173, 43_driver.md R216, R219). -/

namespace Sys2Proof.Proofs

open Sys2Proof Sys2Proof.Machine Sys2Proof.Safety Sys2Proof.Laws

/-! ### The grace tick between the steps of an operation -/

/-- Where the grace tick is lost, no tick brings it back: only ARM leaves one (41_sequencer.md R144). -/
theorem takeTick_graceTick {s : State} (h : s.graceTick = false) : (takeTick s).graceTick = false := by
  rcases takeTick_cases s with ⟨-, e⟩ | ⟨-, f, -, e⟩ | ⟨-, t, hr, e⟩ <;> rw [e]
  · exact h
  · exact h
  · obtain ⟨-, hgrace⟩ := runHandler_timer hr
    rw [hgrace, spendGrace_eq]
    simp [h]

theorem preemptPoint_graceTick {s : State} (h : s.graceTick = false) : (preemptPoint s).graceTick = false :=
  preemptPoint_induct (P := fun t => t.graceTick = false) (fun _ h => takeTick_graceTick h) (fun _ _ h => h) s h

/-! ### SETENABLE and DRV_POWER -/

/-- The level of EN for an operand (43_driver.md R218). -/
abbrev enLevel (s : State) (on : Bool) : Level :=
  if on = true then s.params.enActiveLevel else s.params.enActiveLevel.other

/-- DRV_POWER: the EN pin, and its event when the level changes (43_driver.md R218, R210). -/
theorem power_eq (s : State) (on : Bool) :
    power s on = { s with
      pins := { s.pins with en := enLevel s on }
      history := s.history ++ if s.pins.en = enLevel s on then [] else [.pin .en (enLevel s on)] } :=
  setPin_en_eq s _

/-- The two steps of a SETENABLE that is not refused, with ticks in between: EN is powered before `enabled` is set, and
released after it is cleared (41_sequencer.md R146). -/
def enableSteps (on : Bool) (s : State) : State :=
  if on then { preemptPoint (power s true) with enabled := true }
  else power (preemptPoint { s with enabled := false }) false

theorem execSetEnable_of_accepted {on : Bool} {s : State} (h : on = false ∨ s.driverReady = true) :
    execSetEnable on s = .next (respond (enableSteps on (beginMainLoop s)) 0x32#8 .ok 0#32) := by
  refine hostCommand_done ((if_neg ?_).trans ?_)
  · rcases h with h | h <;> simp [h]
  · cases on <;> rfl

theorem enableSteps_of_no_ticks (on : Bool) {s : State} (h : s.preempt = []) :
    enableSteps on s = { power s on with enabled := on } := by
  cases on
  · have hnone : preemptPoint { s with enabled := false } = { s with enabled := false } := preemptPoint_of_nil h
    rw [enableSteps, if_neg Bool.false_ne_true, hnone, power_eq, power_eq]
  · rw [enableSteps, if_pos rfl, preemptPoint_of_nil (by rw [power_eq]; exact h)]

theorem power_driverPins (s : State) (on : Bool) :
    driverPins (power s on).history = driverPins s.history ++ pinSends s .en (enLevel s on) :=
  setPin_driverPins s (by decide) _

/-- What SETENABLE leaves of the state it started in, whatever ticks came between its steps. -/
structure Enables (on : Bool) (s t : State) : Prop where
  frame : OnlyDriverAndTicks { s with enabled := on } t
  grace : t.graceTick = false
  pins : t.pins = { s.pins with en := enLevel s on }
  shadows : t.shadows = s.shadows
  driverPins : driverPins t.history = driverPins s.history ++ pinSends s .en (enLevel s on)

/-- EN is powered, ticks follow, and `enabled` is set. -/
theorem enables_of_power_first {s : State} (h : s.graceTick = false) :
    Enables true s { preemptPoint (power s true) with enabled := true } := by
  have hS := stable_onlyDriverAndTicks s
  have hframe : OnlyDriverAndTicks s (preemptPoint (power s true)) :=
    hS.preemptPoint (hS.setPin .en _ (onlyDriverAndTicks_refl s))
  have hsame := preemptPoint_driverSame (power s true)
  exact {
    frame := by
      unfold OnlyDriverAndTicks at *
      rw [hframe]
    grace := preemptPoint_graceTick (by rw [power_eq]; exact h)
    pins := hsame.pins.trans (by rw [power_eq])
    shadows := hsame.shadows.trans (by rw [power_eq])
    driverPins := (preemptPoint_driverPins _).trans (power_driverPins s true) }

/-- `enabled` is cleared, ticks follow, and EN is released. -/
theorem enables_of_power_last {s : State} (h : s.graceTick = false) :
    Enables false s (power (preemptPoint { s with enabled := false }) false) := by
  have hS := stable_onlyDriverAndTicks { s with enabled := false }
  have hframe := hS.preemptPoint (onlyDriverAndTicks_refl _)
  have hsame := preemptPoint_driverSame { s with enabled := false }
  have hgrace := preemptPoint_graceTick (s := { s with enabled := false }) h
  have hpins := preemptPoint_driverPins { s with enabled := false }
  generalize preemptPoint { s with enabled := false } = u at *
  have hlevel : enLevel u false = enLevel s false := by rw [enLevel, hsame.params]
  have hsends : pinSends u .en (enLevel s false) = pinSends s .en (enLevel s false) := by
    rw [pinSends, pinLevel_congr hsame.pins (by decide)]
    rfl
  exact {
    frame := hS.setPin .en _ hframe
    grace := by rw [power_eq]; exact hgrace
    pins := by rw [power_eq, hlevel, hsame.pins]
    shadows := by rw [power_eq]; exact hsame.shadows
    driverPins := by rw [power_driverPins, hpins, hlevel, hsends] }

theorem enableSteps_enables (on : Bool) {s : State} (h : s.graceTick = false) : Enables on s (enableSteps on s) := by
  cases on
  · exact enables_of_power_last h
  · exact enables_of_power_first h

/-- The start of the command and its response write nothing else. -/
theorem onlyDriverAndTicks_respond {on : Bool} {s t : State} {op : Byte} {r : Result} {v : Word}
    (h : OnlyDriverAndTicks { beginMainLoop s with enabled := on } t) :
    OnlyDriverAndTicks { s with enabled := on } (respond t op r v) := by
  unfold OnlyDriverAndTicks respond emit at *
  rw [h]
  rfl

/-- Settles O23: DRV_POWER is `power`, and SETENABLE is the two steps of `enableSteps` or its guard's refusal. -/
theorem enableAndPowerDriveEnPin : Obligations.EnableAndPowerDriveEnPin := by
  intro on s level evs
  simp only [exec]
  refine ⟨congrArg _ (power_eq s on), fun haccepted => ⟨fun hpre => ?_, ?_⟩, fun hon hready => hostCommand_raise ?_⟩
  · rw [execSetEnable_of_accepted haccepted, enableSteps_of_no_ticks on (s := beginMainLoop s) hpre, power_eq]
    rfl
  · have henables := enableSteps_enables on (beginMainLoop_graceTick s)
    refine ⟨_, execSetEnable_of_accepted haccepted, onlyDriverAndTicks_respond henables.frame, henables.grace,
      henables.pins, henables.shadows, ?_, _, rfl⟩
    have hresp : driverPins (respond (enableSteps on (beginMainLoop s)) 0x32#8 .ok 0#32).history =
        driverPins (enableSteps on (beginMainLoop s)).history := by
      simp [respond, driverPinOf]
    exact hresp.trans henables.driverPins
  · simp [hon, hready]

/-! ### The hint and the readers -/

/-- Settles O31: each body completes with its value, and CALIBRATE is refused. -/
theorem hintAndReadersAnswer : Obligations.HintAndReadersAnswer := by
  intro on s
  simp only [exec]
  refine ⟨hostCommand_answered rfl, execGetFreq_answers s, hostCommand_answered ?_, hostCommand_answered ?_,
    hostCommand_answered rfl, hostCommand_raise rfl⟩
  · rw [beginMainLoop_modeState]
    cases s.modeState <;> rfl
  · simp only [Bool.and_eq_true]
    rfl

end Sys2Proof.Proofs
end

section
/-! PROOFS. The transition table of the mode switch (42_mode_fsm.md R175, R179, R180): every move but the mode poll
leaves mode and handler, or ticks of the standard handler meet the gate; the mode poll takes one row of the table at
most. -/

namespace Sys2Proof.Proofs

open Sys2Proof Sys2Proof.Machine Sys2Proof.Safety Sys2Proof.Laws

/-! ### What ticks and driver operations do to the mode -/

/-- From `s` to `t` mode and handler stand, or the standard handler met the gate (42_mode_fsm.md R175 #3). -/
def StandsOrGates (s t : State) : Prop :=
  (t.modeState = s.modeState ∧ t.handler = s.handler) ∨
    (s.modeState = .slewingRequest ∧ t.modeState = .slewingPause ∧ t.modeReq = true ∧ s.handler = .standard ∧
      t.handler = .standard ∧ atBoundary t = true)

theorem standsOrGates_of_eq {s t : State} (hm : t.modeState = s.modeState) (hh : t.handler = s.handler) :
    StandsOrGates s t := .inl ⟨hm, hh⟩

theorem standsOrGates_refl (s : State) : StandsOrGates s s := standsOrGates_of_eq rfl rfl

/-- Where no switch is requested there is no gate to meet. -/
theorem StandsOrGates.stands {s t : State} (h : StandsOrGates s t) (hm : s.modeState ≠ .slewingRequest) :
    t.modeState = s.modeState ∧ t.handler = s.handler :=
  h.resolve_right fun hgate => hm hgate.1

/-- Motion leaves mode and handler, and none happens in SLEWING_PAUSE. -/
theorem StandsOrGates.of_motion {s t u : State} (h : StandsOrGates s t) (ht : t.modeState ≠ .slewingPause)
    (hm : u.modeState = t.modeState) (hh : u.handler = t.handler) : StandsOrGates s u := by
  rcases h with ⟨hmode, hhandler⟩ | ⟨-, hpause, -⟩
  · exact standsOrGates_of_eq (hm.trans hmode) (hh.trans hhandler)
  · exact absurd hpause ht

/-- The gate opens in SLEWING_REQUEST alone, so it is met from there (42_mode_fsm.md R174). -/
theorem StandsOrGates.of_gate {s t : State} (h : StandsOrGates s t) (hgate : gateOpen t = true)
    (hh : t.handler = .standard) : StandsOrGates s { t with modeState := .slewingPause, modeReq := true } := by
  obtain ⟨hrequest, hbound⟩ := gateOpen_iff.1 hgate
  rcases h with ⟨hmode, hhandler⟩ | ⟨-, hpause, -⟩
  · exact .inr ⟨hmode.symm.trans hrequest, rfl, rfl, hhandler.symm.trans hh, hh, hbound⟩
  · cases hpause.symm.trans hrequest

theorem stable_standsOrGates (s : State) : Stable (StandsOrGates s) where
  tick := by
    refine takeTick_induct (P := StandsOrGates s) (fun _ _ h => h) (fun _ _ h => h) (fun _ h => h.of_gate) ?_ ?_
    · intro u t a v w h _ _ htrack hv hw ht
      obtain ⟨_, _, _, _, _, -, rfl⟩ := stdMotion_frame hv hw ht
      exact h.of_motion (fun hp => by simp [hp, trackingModes] at htrack) rfl rfl
    · intro u t a v w h _ hslew hv hw ht
      obtain ⟨_, _, _, -, rfl⟩ := fastMotion_frame hv hw ht
      exact h.of_motion (by simp [hslew]) rfl rfl
  preempt _ _ h := h
  driver _ _ _ _ _ _ h := h

theorem preemptPoint_standsOrGates (s : State) : StandsOrGates s (preemptPoint s) :=
  (stable_standsOrGates s).preemptPoint (standsOrGates_refl s)

/-- Past the gate, in mode `m` with handler `h`, on a boundary. -/
def WaitsOnBoundary (m : ModeState) (h : Handler) (s : State) : Prop :=
  s.modeState = m ∧ s.handler = h ∧ atBoundary s = true

/-- From the gate on, ticks and driver operations leave the motor on a boundary (42_mode_fsm.md R179). -/
theorem stable_waitsOnBoundary {m : ModeState} (hm : trackingModes m = false) (h : Handler) :
    Stable (WaitsOnBoundary m h) where
  tick s hs := by
    obtain ⟨hmode, hhandler, hbound⟩ := hs
    have hswitching : Switching s := by
      unfold Switching
      rw [hmode]
      revert hm
      cases m <;> decide
    obtain ⟨hmode', hbound'⟩ := takeTick_outside_request s (by rw [hmode]; rintro rfl; cases hm)
    have hhandler' : (takeTick s).handler = s.handler := congrArg Registers.handler (regs_takeTick s)
    exact ⟨hmode'.trans hmode, hhandler'.trans hhandler, hbound' hswitching hbound⟩
  preempt _ _ hs := hs
  driver _ _ _ _ _ _ hs := hs

/-! ### Every move but the mode poll -/

/-- The state that a body leaves, if it leaves one. -/
def AnswerStandsOrGates (s : State) : Answer → Prop
  | .done t _ => StandsOrGates s t
  | .failed t _ => StandsOrGates s t
  | .raise _ => True
  | .modelFault _ => True

theorem hostCommand_standsOrGates {s t : State} {op : Byte} {body : State → Answer}
    (e : hostCommand s op body = .next t) (h : AnswerStandsOrGates s (body (beginMainLoop s))) : StandsOrGates s t := by
  rcases hostCommand_cases s op body with ⟨u, v, hb, e'⟩ | ⟨r, hb, e'⟩ | ⟨u, r, hb, e'⟩ | ⟨f, hb, e'⟩ <;>
    rw [e'] at e <;> cases e
  · rw [hb] at h
    exact h
  · exact standsOrGates_of_eq rfl rfl
  · rw [hb] at h
    exact h
  · exact standsOrGates_of_eq rfl rfl

/-- A body that completes and writes neither mode nor handler. -/
theorem answerStandsOrGates_done {s t : State} {v : Word} (hm : t.modeState = s.modeState)
    (hh : t.handler = s.handler) : AnswerStandsOrGates s (.done t v) := standsOrGates_of_eq hm hh

theorem answerStandsOrGates_guard {s : State} {c : Prop} [Decidable c] {r : Result} {a : Answer}
    (h : AnswerStandsOrGates s a) : AnswerStandsOrGates s (if c then .raise r else a) := by
  split
  · trivial
  · exact h

theorem answerStandsOrGates_storeChecked {s : State} {v : Int} {k : Word → State}
    (hm : ∀ w, (k w).modeState = s.modeState) (hh : ∀ w, (k w).handler = s.handler) :
    AnswerStandsOrGates s (storeChecked v k) := by
  unfold storeChecked
  split
  · exact answerStandsOrGates_done (hm _) (hh _)
  · trivial

theorem answerStandsOrGates_valueChecked (s : State) (v : Int) :
    AnswerStandsOrGates s (valueChecked (beginMainLoop s) v) := by
  unfold valueChecked
  split
  · exact answerStandsOrGates_done rfl rfl
  · trivial

/-- The end of a body by the verdict on a configuration (43_driver.md R199, R200, R202). -/
theorem answerStandsOrGates_verdict {s : State} {verdict : Verdict} {refused : Result → Answer} {accepted : Answer}
    (hrefused : ∀ r, AnswerStandsOrGates s (refused r)) (haccepted : AnswerStandsOrGates s accepted) :
    AnswerStandsOrGates s (match verdict with
      | .refuse r => refused r
      | .unmodelled => .modelFault .unmodelled
      | .ok => accepted) := by
  cases verdict with
  | refuse r => exact hrefused r
  | unmodelled => trivial
  | ok => exact haccepted

/-- A driver operation raised by itself, with its ticks, or its model fault. -/
theorem raised_standsOrGates {s u : State} {c : Bool} (h : StandsOrGates s u) :
    StandsOrGates s (if c then addFault s .unmodelled else u) := by
  cases c
  · exact h
  · exact standsOrGates_of_eq rfl rfl

theorem statusRead_standsOrGates {s t : State} (h : StandsOrGates s t) :
    StandsOrGates s (orFault t (updateStatus t)) := by
  rcases updateStatus_cases (stable_standsOrGates s) h with e | ⟨u, _, _, _, hu, e⟩ <;> rw [e]
  · exact h
  · exact hu

theorem tickEvent_standsOrGates (hd : Handler) (s : State) :
    StandsOrGates s (if s.handler = hd then takeTick s else s) := by
  split
  · exact (stable_standsOrGates s).tick s (standsOrGates_refl s)
  · exact standsOrGates_refl s

theorem enableSteps_standsOrGates (on : Bool) {s t : State} (h : StandsOrGates s t) :
    StandsOrGates s (enableSteps on t) := by
  have hS := stable_standsOrGates s
  cases on
  · exact hS.setPin .en _ (hS.preemptPoint (s := { t with enabled := false }) h)
  · exact hS.preemptPoint (hS.setPin .en _ h)

theorem execSetEnable_standsOrGates {on : Bool} {s t : State} (e : execSetEnable on s = .next t) :
    StandsOrGates s t := by
  by_cases h : on = false ∨ s.driverReady = true
  · rw [execSetEnable_of_accepted h] at e
    cases e
    exact enableSteps_standsOrGates on (t := beginMainLoop s) (standsOrGates_of_eq rfl rfl)
  · refine hostCommand_standsOrGates e ?_
    rw [if_pos (by simpa using h)]
    trivial

theorem execDrvInit_standsOrGates {s t : State} (e : execDrvInit s = .next t) : StandsOrGates s t := by
  have hS := stable_standsOrGates s
  refine hostCommand_standsOrGates e
    (answerStandsOrGates_guard (answerStandsOrGates_verdict (fun _ => standsOrGates_of_eq rfl rfl) ?_))
  split
  · trivial
  · exact hS.setPin .en _ (hS.preemptPoint (hS.driverSetup (standsOrGates_of_eq rfl rfl)))

theorem execSetFreq_standsOrGates {f : Word} {s t : State} (e : execSetFreq f s = .next t) : StandsOrGates s t := by
  refine hostCommand_standsOrGates e ?_
  split
  · rename_i u hu
    obtain ⟨_, _, _, _, _, _, _, rfl⟩ := arm_ok_frame hu
    exact answerStandsOrGates_done rfl rfl
  · trivial

/-- BLDISABLE and BLENABLE past their guards: both counters are checked. -/
theorem answerStandsOrGates_bothChecked {s : State} {a b : Int} {k : Word → Word → State}
    (hm : ∀ m g, (k m g).modeState = s.modeState) (hh : ∀ m g, (k m g).handler = s.handler) :
    AnswerStandsOrGates s (match chk a, chk b with
      | some m, some g => .done (k m g) 0#32
      | _, _ => .modelFault .overflow) := by
  split
  · exact answerStandsOrGates_done (hm _ _) (hh _ _)
  · trivial

/-- Every instruction but the mode poll. -/
theorem exec_standsOrGates {i : Instr} {s t : State} (hi : i ≠ .evModePoll) (e : exec i s = .next t) :
    StandsOrGates s t := by
  have hS := stable_standsOrGates s
  have hrefl := standsOrGates_refl s
  cases i
  all_goals simp only [exec] at e
  case resetPos v => exact hostCommand_standsOrGates e (answerStandsOrGates_guard (answerStandsOrGates_done rfl rfl))
  case setInstr v => exact hostCommand_standsOrGates e (answerStandsOrGates_storeChecked (fun _ => rfl) fun _ => rfl)
  case setInstrPark v m =>
    exact hostCommand_standsOrGates e
      (answerStandsOrGates_guard (answerStandsOrGates_storeChecked (fun _ => rfl) fun _ => rfl))
  case setTarget v => exact hostCommand_standsOrGates e (answerStandsOrGates_storeChecked (fun _ => rfl) fun _ => rfl)
  case setTargetPark v m =>
    exact hostCommand_standsOrGates e
      (answerStandsOrGates_guard (answerStandsOrGates_storeChecked (fun _ => rfl) fun _ => rfl))
  case blDisable =>
    exact hostCommand_standsOrGates e (answerStandsOrGates_guard
      (answerStandsOrGates_guard (answerStandsOrGates_bothChecked (fun _ _ => rfl) fun _ _ => rfl)))
  case blEnable =>
    exact hostCommand_standsOrGates e (answerStandsOrGates_guard
      (answerStandsOrGates_guard (answerStandsOrGates_bothChecked (fun _ _ => rfl) fun _ _ => rfl)))
  case setBlAmount a =>
    exact hostCommand_standsOrGates e (answerStandsOrGates_guard
      (answerStandsOrGates_guard (answerStandsOrGates_guard (answerStandsOrGates_done rfl rfl))))
  case getInstr => exact hostCommand_standsOrGates e (answerStandsOrGates_valueChecked _ _)
  case getTarget => exact hostCommand_standsOrGates e (answerStandsOrGates_valueChecked _ _)
  case getTDist => exact hostCommand_standsOrGates e (answerStandsOrGates_valueChecked _ _)
  case getOtDist => exact hostCommand_standsOrGates e (answerStandsOrGates_valueChecked _ _)
  case setFreq f => exact execSetFreq_standsOrGates e
  case setEnable on => exact execSetEnable_standsOrGates e
  case drvInit => exact execDrvInit_standsOrGates e
  case valParam p v =>
    refine hostCommand_standsOrGates e ?_
    split
    · trivial
    · exact answerStandsOrGates_verdict (fun _ => trivial) (answerStandsOrGates_done rfl rfl)
  case setParam p v =>
    refine hostCommand_standsOrGates e ?_
    split
    · trivial
    · exact answerStandsOrGates_guard
        (answerStandsOrGates_verdict (fun _ => trivial) (answerStandsOrGates_done rfl rfl))
  case getParam p =>
    refine hostCommand_standsOrGates e ?_
    split
    · trivial
    · exact answerStandsOrGates_done rfl rfl
  case setSync on | markOrigin | getMotor | getBl | getRampDir | getFreq | setSlew on | getMode | getSlewRatio
    | getStatus | calibrate => cases e; exact standsOrGates_of_eq rfl rfl
  case drvMsTrack => cases e; exact raised_standsOrGates (hS.setMicrostep _ hrefl)
  case drvMsSlew => cases e; exact raised_standsOrGates (hS.setMicrostep _ hrefl)
  case drvDecayTrack => cases e; exact raised_standsOrGates (hS.setDecay _ hrefl)
  case drvDecaySlew => cases e; exact raised_standsOrGates (hS.setDecay _ hrefl)
  case drvUpdateStatus => cases e; exact statusRead_standsOrGates hrefl
  case drvPower on => cases e; exact hS.setPin .en _ hrefl
  case evTickStd => cases e; exact tickEvent_standsOrGates .standard s
  case evTickFast => cases e; exact tickEvent_standsOrGates .fast s
  case evModePoll => exact absurd rfl hi
  case evStatusPoll =>
    cases e
    split
    · exact statusRead_standsOrGates (t := beginMainLoop s) (standsOrGates_of_eq rfl rfl)
    · exact standsOrGates_of_eq rfl rfl

/-- Every move: it stands or gates, or it is the mode poll. -/
theorem exec_standsOrGates_or_modePoll {i : Instr} {s t : State} (e : exec i s = .next t) :
    StandsOrGates s t ∨ t = modePoll (beginMainLoop s) := by
  by_cases hi : i = .evModePoll
  · subst hi
    cases e
    exact .inr rfl
  · exact .inl (exec_standsOrGates hi e)

theorem runSlot_standsOrGates_or_modePoll {slot : Slot} {s t : State} (e : runSlot slot s = .next t) :
    StandsOrGates s t ∨ t = modePoll (beginMainLoop s) := by
  cases slot with
  | host w =>
    simp only [runSlot, runHostWord] at e
    split at e
    · exact exec_standsOrGates_or_modePoll e
    · exact .inl (hostCommand_standsOrGates e trivial)
  | raised w =>
    simp only [runSlot, runRaisedWord] at e
    split at e
    · exact exec_standsOrGates_or_modePoll e
    · cases e
  | tick => exact exec_standsOrGates_or_modePoll e

/-! ### The mode poll -/

/-- From `s` to `t` mode and handler stand, or the change is a row of the transition table, named after what it does
(42_mode_fsm.md R175). -/
inductive FollowsTable (s t : State) : Prop where
  | stands (hm : t.modeState = s.modeState) (hh : t.handler = s.handler)
  | request (hs : s.modeState = .tracking) (ht : t.modeState = .slewingRequest) (hint : s.slewHint = true)
      (hsw : switchable s = true) (hh : t.handler = s.handler)
  | withdraw (hs : s.modeState = .slewingRequest) (ht : t.modeState = .tracking) (hint : s.slewHint = false)
      (hh : t.handler = s.handler)
  | gate (hs : s.modeState = .slewingRequest) (ht : t.modeState = .slewingPause) (hreq : t.modeReq = true)
      (hstd : s.handler = .standard) (hh : t.handler = .standard) (hb : atBoundary t = true)
  | cancel (hs : s.modeState = .slewingPause) (ht : t.modeState = .tracking) (hint : s.slewHint = false)
      (hreq : t.modeReq = false) (hh : t.handler = s.handler)
  | toFast (hs : s.modeState = .slewingPause) (ht : t.modeState = .slewingReady) (hint : s.slewHint = true)
      (hh : t.handler = .fast) (hreq : t.modeReq = false) (hb : atBoundary t = true)
  | slew (hs : s.modeState = .slewingReady) (ht : t.modeState = .slewing) (hh : t.handler = s.handler)
  | toStandard (hs : s.modeState = .slewing) (ht : t.modeState = .trackingReady) (hint : s.slewHint = false)
      (hh : t.handler = .standard) (hb : atBoundary t = true)
  | track (hs : s.modeState = .trackingReady) (ht : t.modeState = .tracking) (hh : t.handler = s.handler)
      (hb : atBoundary t = true)

theorem StandsOrGates.followsTable {s t : State} (h : StandsOrGates s t) : FollowsTable s t := by
  rcases h with ⟨hm, hh⟩ | ⟨hs, ht, hreq, hstd, hh, hb⟩
  · exact .stands hm hh
  · exact .gate hs ht hreq hstd hh hb

theorem pollTracking_followsTable {s : State} (hs : s.modeState = .tracking) : FollowsTable s (pollTracking s) := by
  obtain ⟨-, hh⟩ := (preemptPoint_standsOrGates s).stands (by simp [hs])
  unfold pollTracking
  split
  · rename_i hc
    obtain ⟨hint, hsw⟩ := Bool.and_eq_true_iff.1 hc
    exact .request hs rfl hint hsw hh
  · exact .stands rfl rfl

/-- Ticks before the guard is read again may have met the gate (42_mode_fsm.md R176). -/
theorem pollSlewingRequest_followsTable {s : State} (hs : s.modeState = .slewingRequest) :
    FollowsTable s (pollSlewingRequest s) := by
  have hticks := preemptPoint_standsOrGates s
  unfold pollSlewingRequest
  split
  · exact .stands rfl rfl
  · rename_i hint
    split
    · rename_i hstill
      have hh : (preemptPoint s).handler = s.handler := congrArg Registers.handler (regs_preemptPoint s)
      exact .withdraw hs rfl (by simpa using hint) hh
    · exact hticks.followsTable

theorem enterSlewReady_followsTable {s u : State} (hs : s.modeState = .slewingPause) (hint : s.slewHint = true)
    (hu : WaitsOnBoundary .slewingPause s.handler u) : FollowsTable s (enterSlewReady u) := by
  obtain ⟨hm, hh, hb⟩ := hu
  unfold enterSlewReady
  split
  · rename_i t ht
    obtain ⟨_, _, _, _, _, _, _, _, _, rfl⟩ := arm_settled_frame ht
    exact .toFast hs rfl hint rfl rfl hb
  · exact .stands (hm.trans hs.symm) hh

theorem pollSlewingPause_followsTable {s : State} (hs : s.modeState = .slewingPause) :
    FollowsTable s (pollSlewingPause s) := by
  obtain ⟨hm, hh⟩ := (preemptPoint_standsOrGates s).stands (by simp [hs])
  have hS := stable_waitsOnBoundary (m := .slewingPause) rfl s.handler
  unfold pollSlewingPause switchToSlewing
  split
  · rename_i hint
    split
    · exact .stands hm hh
    · rename_i hb
      split
      · exact .stands hm hh
      · exact enterSlewReady_followsTable hs hint (hS.preemptPoint (hS.setDecay .slew (hS.setMicrostep .slew
          ⟨hm.trans hs, hh, by simpa using hb⟩)))
  · rename_i hint
    exact .cancel hs rfl (by simpa using hint) rfl hh

theorem pollSlewingReady_followsTable {s : State} (hs : s.modeState = .slewingReady) :
    FollowsTable s (pollSlewingReady s) :=
  .slew hs rfl ((preemptPoint_standsOrGates s).stands (by simp [hs])).2

theorem enterTrackingReady_followsTable {s u : State} (hs : s.modeState = .slewing) (hint : s.slewHint = false)
    (hu : WaitsOnBoundary .slewing s.handler u) : FollowsTable s (enterTrackingReady u) := by
  obtain ⟨hm, hh, hb⟩ := hu
  unfold enterTrackingReady
  split
  · rename_i t ht
    obtain ⟨_, _, _, _, _, _, _, rfl⟩ := arm_ok_frame ht
    exact .toStandard hs rfl hint rfl hb
  · exact .stands (hm.trans hs.symm) hh

theorem pollSlewing_followsTable {s : State} (hs : s.modeState = .slewing) : FollowsTable s (pollSlewing s) := by
  obtain ⟨hm, hh⟩ := (preemptPoint_standsOrGates s).stands (by simp [hs])
  have hS := stable_waitsOnBoundary (m := .slewing) rfl s.handler
  unfold pollSlewing swapToStandard
  split
  · exact .stands rfl rfl
  · rename_i hint
    split
    · exact .stands hm hh
    · rename_i hb
      split
      · exact .stands hm hh
      · exact enterTrackingReady_followsTable hs (by simpa using hint)
          (hS.preemptPoint ⟨hm.trans hs, hh, by simpa using hb⟩)

theorem pollTrackingReady_followsTable {s : State} (hs : s.modeState = .trackingReady) :
    FollowsTable s (pollTrackingReady s) := by
  obtain ⟨hm, hh⟩ := (preemptPoint_standsOrGates s).stands (by simp [hs])
  have hS := stable_waitsOnBoundary (m := .trackingReady) rfl s.handler
  unfold pollTrackingReady switchToTracking
  split
  · exact .stands hm hh
  · rename_i hb
    split
    · exact .stands hm hh
    · obtain ⟨-, hh', hb'⟩ := hS.preemptPoint (hS.setDecay .track (hS.setMicrostep .track
        ⟨hm.trans hs, hh, by simpa using hb⟩))
      exact .track hs rfl hh' hb'

/-- The mode poll takes at most one row, whatever ticks come in between (42_mode_fsm.md R175, R176). -/
theorem modePoll_followsTable (s : State) : FollowsTable s (modePoll s) := by
  unfold modePoll
  split
  · exact pollTracking_followsTable ‹_›
  · exact pollSlewingRequest_followsTable ‹_›
  · exact pollSlewingPause_followsTable ‹_›
  · exact pollSlewingReady_followsTable ‹_›
  · exact pollSlewing_followsTable ‹_›
  · exact pollTrackingReady_followsTable ‹_›

/-- The loss of the grace tick at the start of a main-loop operation is nothing to the table. -/
theorem FollowsTable.of_beginMainLoop {s t : State} (h : FollowsTable (beginMainLoop s) t) : FollowsTable s t := by
  cases h with
  | stands hm hh => exact .stands hm hh
  | request hs ht hint hsw hh => exact .request hs ht hint hsw hh
  | withdraw hs ht hint hh => exact .withdraw hs ht hint hh
  | gate hs ht hreq hstd hh hb => exact .gate hs ht hreq hstd hh hb
  | cancel hs ht hint hreq hh => exact .cancel hs ht hint hreq hh
  | toFast hs ht hint hh hreq hb => exact .toFast hs ht hint hh hreq hb
  | slew hs ht hh => exact .slew hs ht hh
  | toStandard hs ht hint hh hb => exact .toStandard hs ht hint hh hb
  | track hs ht hh hb => exact .track hs ht hh hb

theorem runSlot_followsTable {slot : Slot} {s t : State} (e : runSlot slot s = .next t) : FollowsTable s t := by
  rcases runSlot_standsOrGates_or_modePoll e with h | rfl
  · exact h.followsTable
  · exact (modePoll_followsTable (beginMainLoop s)).of_beginMainLoop

/-- Settles O36: the rows of the statement, in its order. -/
theorem stepsFollowTransitionTable : Obligations.StepsFollowTransitionTable := by
  intro slot s t e
  cases runSlot_followsTable e with
  | stands hm hh => exact .inl ⟨hm, hh⟩
  | request hs ht hint hsw hh => exact .inr (.inl ⟨hs, ht, hint, hsw, hh⟩)
  | withdraw hs ht hint hh => exact .inr (.inr (.inl ⟨hs, ht, hint, hh⟩))
  | gate hs ht hreq hstd hh hb => exact .inr (.inr (.inr (.inl ⟨hs, ht, hreq, hstd, hh, hb⟩)))
  | cancel hs ht hint hreq hh => exact .inr (.inr (.inr (.inr (.inl ⟨hs, ht, hint, hreq, hh⟩))))
  | toFast hs ht hint hh hreq hb => exact .inr (.inr (.inr (.inr (.inr (.inl ⟨hs, ht, hint, hh, hreq, hb⟩)))))
  | slew hs ht hh => exact .inr (.inr (.inr (.inr (.inr (.inr (.inl ⟨hs, ht, hh⟩))))))
  | toStandard hs ht hint hh hb =>
    exact .inr (.inr (.inr (.inr (.inr (.inr (.inr (.inl ⟨hs, ht, hint, hh, hb⟩)))))))
  | track hs ht hh hb => exact .inr (.inr (.inr (.inr (.inr (.inr (.inr (.inr ⟨hs, ht, hh, hb⟩)))))))

/-- Settles O37: the one row that leaves TRACKING asks for a switchable model. -/
theorem unsupportedSwitchStaysTracking : Obligations.UnsupportedSwitchStaysTracking := by
  intro slot s t hno hs hstd e
  obtain ⟨hparams, -⟩ := faultsStayAndParamsAreFixed slot s t e
  refine ⟨by rw [hparams]; exact hno, ?_⟩
  cases runSlot_followsTable e with
  | stands hm hh => exact ⟨hm.trans hs, hh.trans hstd⟩
  | request _ _ _ hsw _ =>
    obtain ⟨hyes, -⟩ := switchable_iff.1 hsw
    cases hno.symm.trans hyes
  | withdraw hs' | gate hs' | cancel hs' | toFast hs' | slew hs' | toStandard hs' | track hs' => cases hs.symm.trans hs'

end Sys2Proof.Proofs
end

section
/-! PROOFS. The mode poll when no tick comes in between (42_mode_fsm.md R175 to R178): the whole next state of each
transition, and the poll off a boundary. -/

namespace Sys2Proof.Proofs

open Sys2Proof Sys2Proof.Machine Sys2Proof.Safety Sys2Proof.Laws

/-! ### The polls that ask for no boundary -/

/-- The event is the poll of a state that has lost the grace tick (41_sequencer.md R144). -/
theorem exec_evModePoll {s t : State} (h : modePoll (beginMainLoop s) = t) : exec .evModePoll s = .next t :=
  congrArg Host.Outcome.next h

/-- Transition 1. -/
theorem modePoll_requests {s : State} (hpre : s.preempt = []) (hm : s.modeState = .tracking) (hint : s.slewHint = true)
    (hsw : switchable s = true) : modePoll s = { s with modeState := .slewingRequest } := by
  simp only [modePoll, hm, pollTracking, hint, hsw, preemptPoint_of_nil hpre]
  rfl

theorem modePoll_keepsTracking {s : State} (hm : s.modeState = .tracking)
    (h : ¬(s.slewHint = true ∧ switchable s = true)) : modePoll s = s := by
  simp only [modePoll, hm, pollTracking]
  exact if_neg fun hc => h (Bool.and_eq_true_iff.1 hc)

/-- Transition 2: no tick has met the gate before the guard is read again. -/
theorem modePoll_withdraws {s : State} (hpre : s.preempt = []) (hm : s.modeState = .slewingRequest)
    (hint : s.slewHint = false) : modePoll s = { s with modeState := .tracking } := by
  simp only [modePoll, hm, pollSlewingRequest, hint, preemptPoint_of_nil hpre]
  rfl

theorem modePoll_keepsRequest {s : State} (hm : s.modeState = .slewingRequest) (hint : s.slewHint = true) :
    modePoll s = s := by
  simp only [modePoll, hm, pollSlewingRequest, hint]
  rfl

/-- Transition 4. -/
theorem modePoll_cancels {s : State} (hpre : s.preempt = []) (hm : s.modeState = .slewingPause)
    (hint : s.slewHint = false) : modePoll s = { s with modeState := .tracking, modeReq := false } := by
  simp only [modePoll, hm, pollSlewingPause, hint, preemptPoint_of_nil hpre]
  rfl

/-- Transition 6. -/
theorem modePoll_slews {s : State} (hpre : s.preempt = []) (hm : s.modeState = .slewingReady) :
    modePoll s = { s with modeState := .slewing } := by
  simp only [modePoll, hm, pollSlewingReady, preemptPoint_of_nil hpre]

theorem modePoll_keepsSlewing {s : State} (hm : s.modeState = .slewing) (hint : s.slewHint = true) :
    modePoll s = s := by
  simp only [modePoll, hm, pollSlewing, hint]
  rfl

/-- Settles O32, by the poll of each mode. -/
theorem plainModePolls : Obligations.PlainModePolls := by
  intro s hpre
  exact ⟨fun hm hint hsw => exec_evModePoll (modePoll_requests hpre hm hint hsw),
    fun hm h => exec_evModePoll (modePoll_keepsTracking hm h),
    fun hm hint => exec_evModePoll (modePoll_withdraws hpre hm hint),
    fun hm hint => exec_evModePoll (modePoll_keepsRequest hm hint),
    fun hm hint => exec_evModePoll (modePoll_cancels hpre hm hint),
    fun hm => exec_evModePoll (modePoll_slews hpre hm),
    fun hm hint => exec_evModePoll (modePoll_keepsSlewing hm hint)⟩

/-! ### The polls that ask for the boundary -/

theorem modePoll_of_slewingPause {s : State} (hpre : s.preempt = []) (hm : s.modeState = .slewingPause)
    (hint : s.slewHint = true) : modePoll s = switchToSlewing s := by
  simp only [modePoll, hm, pollSlewingPause, hint, if_true, preemptPoint_of_nil hpre]

theorem modePoll_of_slewing {s : State} (hpre : s.preempt = []) (hm : s.modeState = .slewing)
    (hint : s.slewHint = false) : modePoll s = swapToStandard s := by
  simp only [modePoll, hm, pollSlewing, hint, preemptPoint_of_nil hpre]
  rfl

theorem modePoll_of_trackingReady {s : State} (hpre : s.preempt = []) (hm : s.modeState = .trackingReady) :
    modePoll s = switchToTracking s := by
  simp only [modePoll, hm, pollTrackingReady, preemptPoint_of_nil hpre]

/-- Off a boundary the driver is not reconfigured (42_mode_fsm.md R177). -/
theorem switchToSlewing_of_off {s : State} (h : atBoundary s = false) : switchToSlewing s = addFault s .gating := by
  simp [switchToSlewing, h]

theorem swapToStandard_of_off {s : State} (h : atBoundary s = false) : swapToStandard s = addFault s .gating := by
  simp [swapToStandard, h]

theorem switchToTracking_of_off {s : State} (h : atBoundary s = false) : switchToTracking s = addFault s .gating := by
  simp [switchToTracking, h]

/-- Each of the three switches asks for the boundary first (42_mode_fsm.md R177). -/
theorem modePoll_of_off {s : State} (hpre : s.preempt = []) (hoff : atBoundary s = false)
    (hmode : (s.modeState = .slewingPause ∧ s.slewHint = true) ∨ (s.modeState = .slewing ∧ s.slewHint = false) ∨
      s.modeState = .trackingReady) : modePoll s = addFault s .gating := by
  rcases hmode with ⟨hm, hint⟩ | ⟨hm, hint⟩ | hm
  · exact (modePoll_of_slewingPause hpre hm hint).trans (switchToSlewing_of_off hoff)
  · exact (modePoll_of_slewing hpre hm hint).trans (swapToStandard_of_off hoff)
  · exact (modePoll_of_trackingReady hpre hm).trans (switchToTracking_of_off hoff)

/-- Settles O35, by the poll after the loss of the grace tick. -/
theorem gatingFaultOffBoundary : Obligations.GatingFaultOffBoundary :=
  fun _ hpre hoff hmode => exec_evModePoll (modePoll_of_off hpre hoff hmode)

/-! ### ARM at a handler swap -/

/-- The sequencer's registers agree with the accepted frequency, whatever handler is installed, and no grace tick is
pending. -/
structure SequencerSettled (s : State) : Prop where
  timer : s.timerRunning = (classify s.freqBits).runs
  latch : s.dirLatch = (classify s.freqBits).dir
  step : s.rearm = true → s.step = 0#32
  grace : s.graceTick = false

/-- The start of a main-loop operation settles what the invariant leaves open, the grace tick. -/
theorem sequencerSettled_of_inv {s : State} (h : SequencerInv s) : SequencerSettled (beginMainLoop s) := by
  have hstep := step_zero_of_rearm h
  obtain ⟨htimer, hlatch, -⟩ := h
  exact ⟨htimer, hlatch, hstep, rfl⟩

/-- ARM with the latched direction: the step is written at once, or as the pending one (41_sequencer.md R143). -/
theorem armStep_of_latched {s : State} (h : s.rearm = true → s.step = 0#32) :
    armStep s s.dirLatch = { s with
      step := if s.rearm = true then 0#32 else wordOfInt (s.dirLatch.toInt * armMult s)
      pendingStep := if s.rearm = true then wordOfInt (s.dirLatch.toInt * armMult s) else s.pendingStep } := by
  rw [armStep_eq]
  cases hr : s.rearm
  · simp
  · simp [h hr]

/-- Only the period differs where the timer stands as it stood. -/
theorem withTimer_of_same {s : State} {g r : Bool} (p : Nat) (hg : g = s.graceTick) (hr : r = s.timerRunning) :
    ({ s with graceTick := g, timerRunning := r, periodSub := p } : State) = { s with periodSub := p } := by
  subst hg hr
  rfl

/-- Where the frequency is the accepted one, ARM writes the period and the step for the installed handler, and nothing
else (41_sequencer.md R143). -/
theorem arm_of_settled {s : State} (h : SequencerSettled s) (hp : timerParamsOk s.params = true) :
    arm s = .ok { s with
      periodSub := armedPeriod s
      step := if s.rearm = true then 0#32 else wordOfInt (s.dirLatch.toInt * armMult s)
      pendingStep := if s.rearm = true then wordOfInt (s.dirLatch.toInt * armMult s) else s.pendingStep } := by
  obtain ⟨htimer, hlatch, hstep, hgrace⟩ := h
  have hstate : arm s = .ok (armStep { s with periodSub := armedPeriod s } s.dirLatch) := by
    cases hc : classify s.freqBits with
    | stop =>
      rw [hc] at htimer hlatch
      have hperiod : armedPeriod s = 0 := by simp only [armedPeriod, hc]
      rw [arm_of_stop hc, hperiod]
      exact congrArg₂ (fun u d => Except.ok (armStep u d))
        (withTimer_of_same 0 (by simp [htimer, Freq.runs]) htimer.symm) hlatch.symm
    | run d n m =>
      rw [hc] at htimer hlatch
      have hperiod : armedPeriod s = periodOf s.params n m (armMult s) := by simp only [armedPeriod, hc]
      rw [arm_of_run hc hp, hperiod]
      exact congrArg₂ (fun u d => Except.ok (armStep u d)) (withTimer_of_same _ hgrace.symm htimer.symm) hlatch.symm
  rw [hstate]
  exact congrArg _ (armStep_of_latched (s := { s with periodSub := armedPeriod s }) hstep)

/-- No timer parameter is bad where all are in their domain. -/
theorem armBad_of_paramsOk {s : State} (h : ParamsOk s.params) : armBad s = false := by
  simp [armBad, timerParamsOk_of_paramsOk h]

/-! ### The driver operations of a switch -/

/-- A driver operation without ticks leaves the sequencer's registers. -/
theorem SequencerSettled.of_onlyDriver {s t : State} (h : SequencerSettled s) (ht : OnlyDriver s t) :
    SequencerSettled t := by
  rw [ht]
  exact ⟨h.timer, h.latch, h.step, h.grace⟩

theorem onlyDriver_refl (s : State) : OnlyDriver s s := rfl

/-- The two driver operations of a switch, one after the other, when no tick comes in between (43_driver.md R206 to
R209). -/
theorem reconfigured_onlyDriver {s : State} (x : Phase) (hpre : s.preempt = []) :
    OnlyDriver s (setMicrostep s x) ∧ OnlyDriver s (setDecay (setMicrostep s x) x) :=
  have h := setMicrostep_onlyDriver (x := x) hpre (onlyDriver_refl s)
  ⟨h, setDecay_onlyDriver hpre h⟩

theorem paramsOk_of_onlyDriver {s t : State} (h : ParamsOk s.params) (ht : OnlyDriver s t) : ParamsOk t.params := by
  rw [ht]
  exact h

theorem preempt_of_onlyDriver {s t : State} (h : s.preempt = []) (ht : OnlyDriver s t) : t.preempt = [] := by
  rw [ht]
  exact h

/-- A driver operation raised by itself, where no parameter is bad. -/
theorem next_of_not_bad {c : Bool} {s u : State} (h : c = false) :
    (Host.Outcome.next (if c then addFault s .unmodelled else u) : Host.Outcome State Fault Refusal) = .next u := by
  subst h
  rfl

theorem exec_drvMsTrack {s : State} (hp : ParamsOk s.params) : exec .drvMsTrack s = .next (setMicrostep s .track) :=
  next_of_not_bad (setMicrostepBad_of_paramsOk hp .track)

theorem exec_drvMsSlew {s : State} (hp : ParamsOk s.params) : exec .drvMsSlew s = .next (setMicrostep s .slew) :=
  next_of_not_bad (setMicrostepBad_of_paramsOk hp .slew)

theorem exec_drvDecayTrack {s : State} (hp : ParamsOk s.params) : exec .drvDecayTrack s = .next (setDecay s .track) :=
  next_of_not_bad (setDecayBad_of_paramsOk hp .track)

theorem exec_drvDecaySlew {s : State} (hp : ParamsOk s.params) : exec .drvDecaySlew s = .next (setDecay s .slew) :=
  next_of_not_bad (setDecayBad_of_paramsOk hp .slew)

/-! ### Transitions 7 and 8 -/

theorem modePoll_swapsToStandard {s : State} (hpre : s.preempt = []) (hm : s.modeState = .slewing)
    (hint : s.slewHint = false) (hb : atBoundary s = true) (hp : ParamsOk s.params) (h : SequencerSettled s) :
    modePoll s = { s with
      handler := .standard, modeState := .trackingReady
      periodSub := armedPeriod { s with handler := .standard }
      step := if s.rearm = true then 0#32 else wordOfInt s.dirLatch.toInt
      pendingStep := if s.rearm = true then wordOfInt s.dirLatch.toInt else s.pendingStep } := by
  have hset : SequencerSettled { s with handler := .standard } := ⟨h.timer, h.latch, h.step, h.grace⟩
  have hmult : s.dirLatch.toInt * armMult { s with handler := .standard } = s.dirLatch.toInt := Int.mul_one _
  have harm := arm_of_settled hset (timerParamsOk_of_paramsOk hp)
  simp only [hmult] at harm
  rw [modePoll_of_slewing hpre hm hint]
  simp only [swapToStandard, hb, armBad_of_paramsOk hp, preemptPoint_of_nil hpre, enterTrackingReady, harm]
  rfl

theorem modePoll_switchesToTracking {s : State} (hpre : s.preempt = []) (hm : s.modeState = .trackingReady)
    (hb : atBoundary s = true) (hp : ParamsOk s.params) :
    modePoll s = { setDecay (setMicrostep s .track) .track with modeState := .tracking } := by
  obtain ⟨-, hdriver⟩ := reconfigured_onlyDriver .track hpre
  rw [modePoll_of_trackingReady hpre hm]
  simp only [switchToTracking, hb, setMicrostepBad_of_paramsOk hp, setDecayBad_of_paramsOk hp,
    preemptPoint_of_nil (preempt_of_onlyDriver hpre hdriver)]
  rfl

/-- Settles O34: ARM at the swap, and the two driver operations in TRACKING_READY. -/
theorem switchBackReconfigures : Obligations.SwitchBackReconfigures := by
  intro s hp hpre hb
  refine ⟨fun hm hint hinv => exec_evModePoll
    (modePoll_swapsToStandard hpre hm hint hb hp (sequencerSettled_of_inv hinv)), fun hm => ?_⟩
  obtain ⟨hmicro, hdriver⟩ := reconfigured_onlyDriver (s := beginMainLoop s) .track hpre
  exact ⟨_, _, exec_drvMsTrack (s := beginMainLoop s) hp,
    exec_drvDecayTrack (paramsOk_of_onlyDriver (s := beginMainLoop s) hp hmicro),
    exec_evModePoll (modePoll_switchesToTracking hpre hm hb hp), hdriver⟩

/-! ### Transition 5 -/

/-- `setDir` with its event when the direction changes (41_sequencer.md R149). -/
theorem setDir_eq (s : State) (d : Dir) :
    setDir s d = { s with
      dir := d, history := s.history ++ if d = s.dir then [] else [.pin .dir (dirLevel s.params d)] } := by
  unfold setDir
  by_cases h : s.dir = d
  · subst h
    simp
  · rw [if_neg h, if_neg (Ne.symm h)]
    rfl

/-- The settled direction, by cases on where the target lies (42_mode_fsm.md R178). -/
theorem settledDir_eq (s : State) :
    settledDir s =
      if s.motorSteps.toInt < s.targetSteps.toInt then .fwd
      else if s.targetSteps.toInt < s.motorSteps.toInt then .rev
      else match s.dirLatch with
        | .pos => .fwd
        | .neg => .rev
        | .zero => s.dir := by
  unfold settledDir signOf
  rcases lt_trichotomy s.motorSteps.toInt s.targetSteps.toInt with h | h | h
  · rw [if_neg (by omega), if_neg (by omega), if_pos h]
    rfl
  · rw [if_neg (by omega), if_pos (by omega), if_neg (by omega), if_neg (by omega)]
    cases s.dirLatch <;> rfl
  · rw [if_pos (by omega), if_neg (by omega), if_pos h]
    rfl

theorem enterSlewReady_of_arm {s t : State} (h : arm { settleDir s with handler := .fast } = .ok t) :
    enterSlewReady s = { t with modeReq := false, modeState := .slewingReady } := by
  simp only [enterSlewReady, h]

theorem enterSlewReady_of_settled {s : State} (hp : ParamsOk s.params) (h : SequencerSettled s) :
    enterSlewReady s = { s with
      modeState := .slewingReady, modeReq := false, handler := .fast
      dir := settledDir s
      periodSub := armedPeriod { s with handler := .fast }
      step := if s.rearm = true then 0#32 else wordOfInt (s.dirLatch.toInt * homeSteps s)
      pendingStep := if s.rearm = true then wordOfInt (s.dirLatch.toInt * homeSteps s) else s.pendingStep
      history :=
        s.history ++ if settledDir s = s.dir then [] else [.pin .dir (dirLevel s.params (settledDir s))] } := by
  have hset : SequencerSettled { settleDir s with handler := .fast } := by
    rw [settleDir_frame]
    exact ⟨h.timer, h.latch, h.step, h.grace⟩
  have hparams : timerParamsOk (settleDir s).params = true := by
    rw [settleDir_frame]
    exact timerParamsOk_of_paramsOk hp
  rw [enterSlewReady_of_arm (arm_of_settled hset hparams), settleDir_eq, setDir_eq]
  rfl

theorem modePoll_switchesToSlewing {s : State} (hpre : s.preempt = []) (hm : s.modeState = .slewingPause)
    (hint : s.slewHint = true) (hb : atBoundary s = true) (hp : ParamsOk s.params) :
    modePoll s = enterSlewReady (setDecay (setMicrostep s .slew) .slew) := by
  obtain ⟨-, hdriver⟩ := reconfigured_onlyDriver .slew hpre
  rw [modePoll_of_slewingPause hpre hm hint]
  simp only [switchToSlewing, hb, setMicrostepBad_of_paramsOk hp, setDecayBad_of_paramsOk hp, armBad_of_paramsOk hp,
    preemptPoint_of_nil (preempt_of_onlyDriver hpre hdriver)]
  rfl

/-- The end of transition 5 after driver operations without ticks, in terms of the state before them. -/
theorem enterSlewReady_of_onlyDriver {s u : State} {d : Dir} (hp : ParamsOk s.params) (h : SequencerSettled s)
    (hu : OnlyDriver s u) (hd : settledDir s = d) :
    enterSlewReady u = { u with
      modeState := .slewingReady, modeReq := false, handler := .fast
      dir := d
      periodSub := armedPeriod { s with handler := .fast }
      step := if s.rearm = true then 0#32 else wordOfInt (s.dirLatch.toInt * homeSteps s)
      pendingStep := if s.rearm = true then wordOfInt (s.dirLatch.toInt * homeSteps s) else s.pendingStep
      history := u.history ++ if d = s.dir then [] else [.pin .dir (dirLevel s.params d)] } := by
  have hset := h.of_onlyDriver hu
  obtain ⟨sh, pn, o, evs, rfl⟩ : ∃ sh pn o evs, u = { s with shadows := sh, pins := pn, oracle := o, history := evs } :=
    ⟨_, _, _, _, hu⟩
  subst hd
  exact enterSlewReady_of_settled hp hset

/-- Settles O33: the two driver operations, then ARM for the fast handler in the settled direction. -/
theorem switchToSlewingReconfigures : Obligations.SwitchToSlewingReconfigures := by
  intro s hp hpre hm hint hb hinv
  obtain ⟨hmicro, hdriver⟩ := reconfigured_onlyDriver (s := beginMainLoop s) .slew hpre
  have ht := enterSlewReady_of_onlyDriver (s := beginMainLoop s) hp (sequencerSettled_of_inv hinv) hdriver
    (settledDir_eq _)
  refine ⟨_, _, _, exec_drvMsSlew (s := beginMainLoop s) hp,
    exec_drvDecaySlew (paramsOk_of_onlyDriver (s := beginMainLoop s) hp hmicro),
    exec_evModePoll (modePoll_switchesToSlewing hpre hm hint hb hp), ?_, hdriver⟩
  have hdir := congrArg State.dir ht
  rw [hdir]
  exact ht

end Sys2Proof.Proofs
end

section
/-! PROOFS. A requested switch meets its gate (42_mode_fsm.md R174, R181): off a boundary every tracking tick brings
`motorSteps + backlashSteps` one step nearer to the next boundary in the direction of the target. -/

namespace Sys2Proof.Proofs

open Sys2Proof Sys2Proof.Machine Sys2Proof.Safety Sys2Proof.Laws

/-! ### Runs of ticks -/

/-- One step of a schedule that begins with a tick. -/
theorem step_of_tick {s : State} {rest : List Slot} (h : s.schedule = .tick :: rest) :
    step s = .next (takeTick (s.withSchedule rest)) := by
  unfold step
  rw [h]
  exact exec_tickInstr (s.withSchedule rest)

/-- A run of a schedule that begins with a tick goes on from the state after it. -/
theorem run_succ_of_tick {s : State} {rest : List Slot} (h : s.schedule = .tick :: rest) (n : Nat) :
    Host.Core.run Sys2Proof.core (n + 1) s = Host.Core.run Sys2Proof.core n (takeTick (s.withSchedule rest)) := by
  have hstep : Sys2Proof.core.step s = .next (takeTick (s.withSchedule rest)) := step_of_tick h
  simp only [Host.Core.run, hstep]

/-! ### One tick of a requested switch -/

/-- A switch is requested, and the standard handler tracks toward a target that stands. -/
structure Requested (s : State) : Prop where
  mode : s.modeState = .slewingRequest
  handler : s.handler = .standard
  running : s.timerRunning = true
  enabled : s.enabled = true
  still : s.synchronized = false

/-- The signed distance to the target in direction `d`, 1 ahead or -1 behind. -/
def distanceAlong (d : Int) (s : State) : Int := d * (s.targetSteps.toInt - s.motorSteps.toInt)

theorem Requested.withSchedule {s : State} (h : Requested s) (rest : List Slot) : Requested (s.withSchedule rest) :=
  ⟨h.mode, h.handler, h.running, h.enabled, h.still⟩

theorem takeTick_of_stdTick {s t : State} (h : Requested s) (ht : stdTick (graceSpent s) = .ok t) : takeTick s = t := by
  have e := execEvTickStd_of_handler h.handler (.inl h.running) ht
  rw [execEvTickStd, if_pos h.handler] at e
  exact Host.Outcome.next.inj e

/-- On a boundary the tick is the gate (42_mode_fsm.md R174). -/
theorem takeTick_meets_gate {s : State} (h : Requested s) (hb : atBoundary s = true) :
    (takeTick s).modeState = .slewingPause := by
  rw [takeTick_of_stdTick h (stdTick_of_gate (s := graceSpent s) (gateOpen_iff.2 ⟨h.mode, hb⟩))]

/-- Off a boundary the tick is a move toward the target, which does not advance. -/
theorem takeTick_of_stdMove {s v : State} (h : Requested s) (hoff : atBoundary s = false)
    (hv : stdMove (graceSpent s) = some v) : takeTick s = consumeRearm v := by
  have hgate : gateOpen (graceSpent s) = false := by
    rw [← Bool.not_eq_true, gateOpen_iff]
    exact fun hopen => Bool.false_ne_true (hoff.symm.trans hopen.2)
  have hstill : autoAdvance (graceSpent s) (!inBacklash (graceSpent s)) = some (graceSpent s) := by
    simp [autoAdvance, h.still]
  exact takeTick_of_stdTick h
    (stdTick_of_move hgate (trackingModes_iff.2 (.inr h.mode)) h.enabled hstill hv)

/-- From `s` to `t` the commanded position goes one step in direction `d`, and the target comes nearer by one step at
the most. -/
structure StepsAlong (d : Int) (s t : State) : Prop where
  requested : Requested t
  schedule : t.schedule = s.schedule
  cfg : t.cfg = s.cfg
  position : commandedPosition t = commandedPosition s + d
  distance : distanceAlong d s - 1 ≤ distanceAlong d t

/-- A boundary `k + 1` steps away is `k` steps away after the step. -/
theorem StepsAlong.boundary_nearer {d : Int} {k : Nat} {s t : State} (h : StepsAlong d s t)
    (hbound : (commandedPosition s + d * (k + 1 : Nat)) % homeSteps s = 0) :
    (commandedPosition t + d * k) % homeSteps t = 0 := by
  have hratio : homeSteps t = homeSteps s := congrArg homeStepsOf h.cfg
  have hsum : commandedPosition t + d * k = commandedPosition s + d * (k + 1 : Nat) := by
    rw [h.position]
    push_cast
    ring
  rw [hratio, hsum, hbound]

/-- A move that took up or released one step of backlash. -/
theorem stepsAlong_of_backlash {d : Int} {s t : State} {e : Dir} {l : List Event} (h : Requested s)
    (hfits : InS32 (s.backlashSteps.toInt + d))
    (ht : t = consumeRearm { graceSpent s with
      backlashSteps := wordOfInt (s.backlashSteps.toInt + d), dir := e, history := l }) :
    StepsAlong d s t := by
  rw [consumeRearm_eq] at ht
  refine ⟨?_, ?_, ?_, ?_, ?_⟩ <;> rw [ht]
  · exact ⟨h.mode, h.handler, h.running, h.enabled, h.still⟩
  · simp only [commandedPosition, toInt_wordOfInt hfits]
    ring
  · simp [distanceAlong]

/-- A move of the motor by one step. -/
theorem stepsAlong_of_motor {d : Int} {s t : State} {e : Dir} {l : List Event} (h : Requested s)
    (hd : d = 1 ∨ d = -1) (hfits : InS32 (s.motorSteps.toInt + d))
    (ht : t = consumeRearm { graceSpent s with
      motorSteps := wordOfInt (s.motorSteps.toInt + d), dir := e, history := l }) :
    StepsAlong d s t := by
  rw [consumeRearm_eq] at ht
  refine ⟨?_, ?_, ?_, ?_, ?_⟩ <;> rw [ht]
  · exact ⟨h.mode, h.handler, h.running, h.enabled, h.still⟩
  · simp only [commandedPosition, toInt_wordOfInt hfits]
    ring
  · simp only [distanceAlong, toInt_wordOfInt hfits]
    rcases hd with rfl | rfl <;> omega

/-- Off a boundary and short of the target a tick steps toward the target (41_sequencer.md R148). -/
theorem takeTick_stepsAlong {d : Int} {s : State} (h : Requested s) (hoff : atBoundary s = false) (hd : d = 1 ∨ d = -1)
    (hfar : 1 ≤ distanceAlong d s) : StepsAlong d s (takeTick s) := by
  obtain ⟨hmotorLow, hmotorHigh⟩ := toInt_inS32 s.motorSteps
  obtain ⟨htargetLow, htargetHigh⟩ := toInt_inS32 s.targetSteps
  obtain ⟨hbackLow, hbackHigh⟩ := toInt_inS32 s.backlashSteps
  obtain ⟨-, hamount⟩ := amountEff_inS32 s
  have hmove : ∀ {v}, stdMove (graceSpent s) = some v → takeTick s = consumeRearm v := takeTick_of_stdMove h hoff
  unfold distanceAlong at hfar
  rcases hd with rfl | rfl
  · have hahead : s.motorSteps.toInt < s.targetSteps.toInt := by omega
    by_cases hb : s.backlashSteps.toInt < amountEff s
    · exact stepsAlong_of_backlash h ⟨by omega, by omega⟩
        (hmove (stdMove_takesUp (s := graceSpent s) hahead hb))
    · exact stepsAlong_of_motor h (.inl rfl) ⟨by omega, by omega⟩
        (hmove (stdMove_forward (s := graceSpent s) hahead (not_lt.1 hb)))
  · have hbehind : s.targetSteps.toInt < s.motorSteps.toInt := by omega
    by_cases hb : 0 < s.backlashSteps.toInt
    · exact stepsAlong_of_backlash h ⟨by omega, by omega⟩
        (hmove (stdMove_releases (s := graceSpent s) hbehind hb))
    · exact stepsAlong_of_motor h (.inr rfl) ⟨by omega, by omega⟩
        (hmove (stdMove_back (s := graceSpent s) hbehind (not_lt.1 hb)))

/-! ### The gate is met -/

/-- On a boundary the next tick of the schedule meets the gate. -/
theorem run_meets_gate_now {s : State} {rest : List Slot} (h : Requested s) (hb : atBoundary s = true)
    (hsched : s.schedule = .tick :: rest) :
    ∃ t, Host.Core.run Sys2Proof.core 1 s = .next t ∧ t.modeState = .slewingPause :=
  ⟨_, run_succ_of_tick hsched 0, takeTick_meets_gate (h.withSchedule rest) hb⟩

/-- With a boundary `k` steps away in the direction of the target, and no farther than the target, `k + 1` ticks at the
most reach SLEWING_PAUSE. -/
theorem run_meets_gate {d : Int} (hd : d = 1 ∨ d = -1) (k m : Nat) {s : State} (h : Requested s)
    (hbound : (commandedPosition s + d * k) % homeSteps s = 0) (hfar : k ≤ distanceAlong d s)
    (hsched : s.schedule = List.replicate (m + 1) .tick) (hm : k ≤ m) :
    ∃ n t, n ≤ k + 1 ∧ Host.Core.run Sys2Proof.core n s = .next t ∧ t.modeState = .slewingPause := by
  induction k generalizing m s with
  | zero =>
    have hzero : commandedPosition s % homeSteps s = 0 := by rwa [Nat.cast_zero, mul_zero, add_zero] at hbound
    obtain ⟨t, hrun, hpause⟩ := run_meets_gate_now h (atBoundary_iff.2 hzero) hsched
    exact ⟨1, t, le_rfl, hrun, hpause⟩
  | succ k ih =>
    obtain ⟨m, rfl⟩ := Nat.exists_eq_add_of_le' hm
    by_cases hb : atBoundary s = true
    · obtain ⟨t, hrun, hpause⟩ := run_meets_gate_now h hb hsched
      exact ⟨1, t, by omega, hrun, hpause⟩
    · have hstep := takeTick_stepsAlong (h.withSchedule (List.replicate (m + (k + 1)) .tick))
        (Bool.eq_false_iff.2 hb) hd (le_trans (by omega) hfar)
      have hleft : (k : Int) ≤ distanceAlong d s - 1 := by omega
      obtain ⟨n, t, hn, hrun, hpause⟩ := ih (m + k) hstep.requested (hstep.boundary_nearer hbound)
        (le_trans hleft hstep.distance) hstep.schedule (by omega)
      exact ⟨n + 1, t, by omega, (run_succ_of_tick hsched n).trans hrun, hpause⟩

/-- The next multiple of the ratio, ahead or behind, lies less than the ratio away. -/
theorem exists_boundary_within {d : Int} (hd : d = 1 ∨ d = -1) (x : Int) {m : Int} (hm : 1 ≤ m) :
    ∃ k : Nat, (k : Int) < m ∧ (x + d * k) % m = 0 := by
  have hpos : 0 < m := by omega
  have hlow := Int.emod_nonneg (-(d * x)) hpos.ne'
  have hhigh := Int.emod_lt_of_pos (-(d * x)) hpos
  refine ⟨(-(d * x) % m).toNat, by omega, ?_⟩
  rw [Int.toNat_of_nonneg hlow]
  apply Int.emod_eq_zero_of_dvd
  refine ⟨-d * (-(d * x) / m), ?_⟩
  rw [Int.emod_def]
  rcases hd with rfl | rfl <;> ring

/-- The target lies in one of the two directions, and at its distance. -/
theorem exists_direction (s : State) :
    ∃ d : Int, (d = 1 ∨ d = -1) ∧ distanceAlong d s = |s.targetSteps.toInt - s.motorSteps.toInt| := by
  unfold distanceAlong
  rcases abs_choice (s.targetSteps.toInt - s.motorSteps.toInt) with h | h
  · exact ⟨1, .inl rfl, by rw [h, one_mul]⟩
  · exact ⟨-1, .inr rfl, by rw [h, neg_one_mul]⟩

/-- Settles O38: the boundary in the direction of the target is nearer than the ratio, and so than the target. -/
theorem requestMeetsGateWithinRatio : Obligations.RequestMeetsGateWithinRatio := by
  intro s hmode hstd hrun hon hstill _ hratio hfar hsched
  obtain ⟨d, hd, hdistance⟩ := exists_direction s
  obtain ⟨k, hk, hbound⟩ := exists_boundary_within hd (commandedPosition s) hratio
  obtain ⟨m, hm⟩ : ∃ m, (homeSteps s).toNat = m + 1 := ⟨(homeSteps s).toNat - 1, by omega⟩
  rw [hm] at hsched ⊢
  obtain ⟨n, t, hn, hrun, hpause⟩ := run_meets_gate hd k m ⟨hmode, hstd, hrun, hon, hstill⟩ hbound (by omega) hsched
    (by omega)
  exact ⟨n, t, by omega, hrun, hpause⟩

end Sys2Proof.Proofs
end

section
/-! PROOFS. The driver's configuration (43_driver.md R192 to R201): the checks of a configuration as a list of which the
first failing one decides, the microstep codes and the step ratio, the current formula, and the parameter commands. -/

namespace Sys2Proof.Proofs

open Sys2Proof Sys2Proof.Machine Sys2Proof.Safety Sys2Proof.Laws

/-! ### The first failing check decides -/

/-- `v` is the result of checks that stand in this order: that of the first which fails, or OK (43_driver.md R198). -/
def Decides : List (Prop × Result) → Result → Prop
  | [], v => v = .ok
  | e :: rest, v => (e.1 ∧ v = e.2) ∨ (¬e.1 ∧ Decides rest v)

theorem decides_ite {c q : Prop} [Decidable c] {r v : Result} {rest : List (Prop × Result)} (h : c ↔ q)
    (hrest : Decides rest v) : Decides ((q, r) :: rest) (if c then r else v) := by
  by_cases hc : c
  · exact .inl ⟨h.1 hc, if_pos hc⟩
  · rw [if_neg hc]
    exact .inr ⟨mt h.2 hc, hrest⟩

theorem Decides.ok_iff {checks : List (Prop × Result)} {v : Result} (h : Decides checks v)
    (hok : ∀ e ∈ checks, e.2 ≠ .ok) : v = .ok ↔ ∀ e ∈ checks, ¬e.1 := by
  induction checks with
  | nil => exact iff_of_true h (by simp)
  | cons e rest ih =>
    obtain ⟨he, hrest⟩ := List.forall_mem_cons.1 hok
    rw [List.forall_mem_cons]
    rcases h with ⟨hfails, rfl⟩ | ⟨hpasses, h⟩
    · exact iff_of_false he fun hall => hall.1 hfails
    · rw [ih h hrest]
      exact (and_iff_right hpasses).symm

theorem Decides.refused_iff {checks : List (Prop × Result)} {v : Result} (h : Decides checks v)
    (hok : ∀ e ∈ checks, e.2 ≠ .ok) (r : Result) :
    (v = r ∧ r ≠ .ok) ↔
      ∃ before fails after, checks = before ++ (fails, r) :: after ∧ fails ∧ ∀ e ∈ before, ¬e.1 := by
  induction checks with
  | nil =>
    refine iff_of_false (fun hr => hr.2 (hr.1.symm.trans h)) ?_
    rintro ⟨before, fails, after, hl, -⟩
    simp at hl
  | cons e rest ih =>
    obtain ⟨he, hrest⟩ := List.forall_mem_cons.1 hok
    rcases h with ⟨hfails, rfl⟩ | ⟨hpasses, h⟩
    · constructor
      · rintro ⟨rfl, -⟩
        exact ⟨[], e.1, rest, rfl, hfails, by simp⟩
      · rintro ⟨_ | ⟨b, before⟩, fails, after, hl, -, hbefore⟩
        · obtain ⟨rfl, -⟩ := List.cons.inj hl
          exact ⟨rfl, he⟩
        · obtain ⟨rfl, -⟩ := List.cons.inj hl
          exact absurd hfails (hbefore _ (by simp))
    · rw [ih h hrest]
      constructor
      · rintro ⟨before, fails, after, rfl, hf, hbefore⟩
        exact ⟨e :: before, fails, after, rfl, hf, List.forall_mem_cons.2 ⟨hpasses, hbefore⟩⟩
      · rintro ⟨_ | ⟨b, before⟩, fails, after, hl, hf, hbefore⟩
        · obtain ⟨rfl, -⟩ := List.cons.inj hl
          exact absurd hf hpasses
        · obtain ⟨-, rfl⟩ := List.cons.inj hl
          exact ⟨before, fails, after, rfl, hf, (List.forall_mem_cons.1 hbefore).2⟩

/-! ### The checks of a configuration -/

/-- `MS_SET` (43_driver.md R192). -/
def msCounts : List Int := [1, 2, 4, 8, 16, 32, 64, 128, 256]

theorem inMsSet_iff {m : Int} : inMsSet m = true ↔ m ∈ msCounts := List.contains_iff_mem

theorem not_inMsSet_iff {m : Int} : inMsSet m = false ↔ m ∉ msCounts := by rw [← inMsSet_iff, Bool.not_eq_true]

/-- The decays of the model's class (43_driver.md R198, check 4). -/
def legalDecays (p : Params) : List Word := if p.model.cls = .generic then [0#32, 1#32, 2#32] else [3#32, 4#32]

theorem decayLegal_iff {p : Params} {d : Word} : decayLegal p d = true ↔ d ∈ legalDecays p := by
  unfold decayLegal legalDecays
  cases p.model.cls <;>
    simp [Config.decayMixed, Config.decayFast, Config.decaySlow, Config.decaySpreadCycle, Config.decayStealthChop,
      or_assoc]

/-- A current is neither OFF nor in 0..`I_MAX_MA` (43_driver.md R198, check 3). -/
def BadCurrent (p : Params) (x : Word) : Prop := x ≠ 0xFFFFFFFF#32 ∧ (x.toInt < 0 ∨ p.iMaxMa < x.toInt)

theorem not_badCurrent_iff {p : Params} {x : Word} :
    ¬BadCurrent p x ↔ x = 0xFFFFFFFF#32 ∨ (0 ≤ x.toInt ∧ x.toInt ≤ p.iMaxMa) := by
  unfold BadCurrent
  rw [not_and_or, not_or, not_lt, not_lt, not_not]

theorem not_currentOk_iff {p : Params} {x : Word} : (!currentOk p x) = true ↔ BadCurrent p x := by
  rw [← not_not (a := BadCurrent p x), not_badCurrent_iff, Bool.not_eq_true', ← Bool.not_eq_true]
  simp [currentOk, Config.off]

/-- The checks of R198 in their order, each with the result of its failure. -/
def configFailures (p : Params) (c : DriverConfig) : List (Prop × Result) :=
  [(c.microsteps.toInt ∉ msCounts, .invalid),
   (subdivisionsToCode p c.microsteps.toInt = -1, .unsupported),
   (c.microstepsSlewing ≠ 0xFFFFFFFF#32 ∧ c.microstepsSlewing.toInt ∉ msCounts, .invalid),
   (c.microstepsSlewing ≠ 0xFFFFFFFF#32 ∧ subdivisionsToCode p c.microstepsSlewing.toInt = -1, .unsupported),
   (c.microstepsSlewing ≠ 0xFFFFFFFF#32 ∧ c.microsteps.toInt < c.microstepsSlewing.toInt, .invalid),
   (BadCurrent p c.currentHold, .invalid), (BadCurrent p c.currentRun, .invalid),
   (BadCurrent p c.currentGoto, .invalid),
   (p.model.cls ≠ .generic ∧ c.currentRun = 0xFFFFFFFF#32, .invalid),
   (c.decay ∉ legalDecays p, .invalid),
   (c.decaySlewing ≠ 0xFFFFFFFF#32 ∧ c.decaySlewing ∉ legalDecays p, .invalid)]

theorem configFailures_ne_ok (p : Params) (c : DriverConfig) : ∀ e ∈ configFailures p c, e.2 ≠ .ok := by
  simp [configFailures]

theorem not_decayLegal_iff {p : Params} {d : Word} : decayLegal p d = false ↔ d ∉ legalDecays p := by
  rw [← decayLegal_iff, Bool.not_eq_true]

theorem configChecks_decides (p : Params) (c : DriverConfig) : Decides (configFailures p c) (configChecks p c) := by
  unfold configChecks
  refine decides_ite ((Bool.not_eq_true' _).to_iff.trans not_inMsSet_iff) ?_
  refine decides_ite Iff.rfl ?_
  refine decides_ite (and_congr Iff.rfl not_inMsSet_iff) ?_
  refine decides_ite Iff.rfl ?_
  refine decides_ite Iff.rfl ?_
  refine decides_ite not_currentOk_iff ?_
  refine decides_ite not_currentOk_iff ?_
  refine decides_ite not_currentOk_iff ?_
  refine decides_ite Iff.rfl ?_
  refine decides_ite ((Bool.not_eq_true' _).to_iff.trans not_decayLegal_iff) ?_
  exact decides_ite (and_congr Iff.rfl not_decayLegal_iff) rfl

/-! ### The verdict on a configuration -/

theorem validateConfig_eq_ok_iff {p : Params} {c : DriverConfig} :
    validateConfig p c = .ok ↔ configChecks p c = .ok ∧ configCodesOk p c = true := by
  unfold validateConfig
  cases configChecks p c <;> simp

theorem validateConfig_eq_unmodelled_iff {p : Params} {c : DriverConfig} :
    validateConfig p c = .unmodelled ↔ configChecks p c = .ok ∧ ¬configCodesOk p c = true := by
  unfold validateConfig
  cases configChecks p c <;> simp

theorem validateConfig_eq_refuse_iff {p : Params} {c : DriverConfig} {r : Result} :
    validateConfig p c = .refuse r ↔ configChecks p c = r ∧ r ≠ .ok := by
  unfold validateConfig
  cases configChecks p c <;> cases r <;> cases configCodesOk p c <;> simp

/-- The count has a code, in the domain of the table (43_driver.md R194). -/
def CodeIn (p : Params) (m : Int) : Prop :=
  if p.model = .genericTable then 0 ≤ subdivisionsToCode p m ∧ subdivisionsToCode p m ≤ 7
  else subdivisionsToCode p m ≠ -1

theorem codeIn_iff {p : Params} {m : Int} : CodeIn p m ↔ subdivisionsToCode p m ≠ -1 ∧ codeOk p m = true := by
  unfold CodeIn codeOk
  cases p.model <;> simp
  omega

theorem configCodesOk_iff {p : Params} {c : DriverConfig} (hcode : subdivisionsToCode p c.microsteps.toInt ≠ -1)
    (hslew : c.microstepsSlewing ≠ 0xFFFFFFFF#32 → subdivisionsToCode p c.microstepsSlewing.toInt ≠ -1) :
    configCodesOk p c = true ↔
      CodeIn p c.microsteps.toInt ∧ (c.microstepsSlewing = 0xFFFFFFFF#32 ∨ CodeIn p c.microstepsSlewing.toInt) := by
  have hoff : (c.microstepsSlewing == Config.off) = true ↔ c.microstepsSlewing = 0xFFFFFFFF#32 := beq_iff_eq
  rw [configCodesOk, Bool.and_eq_true, Bool.or_eq_true, hoff, codeIn_iff, codeIn_iff, and_iff_right hcode]
  by_cases h : c.microstepsSlewing = 0xFFFFFFFF#32
  · simp [h]
  · rw [and_iff_right (hslew h)]

/-- No check of R198 fails: what each asks for. -/
theorem noConfigFailure_iff {p : Params} {c : DriverConfig} :
    (∀ e ∈ configFailures p c, ¬e.1) ↔
      c.microsteps.toInt ∈ msCounts ∧ subdivisionsToCode p c.microsteps.toInt ≠ -1 ∧
      (c.microstepsSlewing = 0xFFFFFFFF#32 ∨
        (c.microstepsSlewing.toInt ∈ msCounts ∧ subdivisionsToCode p c.microstepsSlewing.toInt ≠ -1 ∧
          c.microstepsSlewing.toInt ≤ c.microsteps.toInt)) ∧
      (∀ x ∈ [c.currentHold, c.currentRun, c.currentGoto], ¬BadCurrent p x) ∧
      (p.model.cls = .generic ∨ c.currentRun ≠ 0xFFFFFFFF#32) ∧ c.decay ∈ legalDecays p ∧
      (c.decaySlewing = 0xFFFFFFFF#32 ∨ c.decaySlewing ∈ legalDecays p) := by
  simp only [configFailures, List.forall_mem_cons, not_and_or, not_not, not_lt, List.not_mem_nil, false_imp_iff,
    implies_true, and_true, ne_eq, or_and_left, and_assoc]

/-- A configuration that no check refuses uses codes in their domain exactly if each of its counts has one. -/
theorem configCodesOk_iff_of_noFailure {p : Params} {c : DriverConfig} (h : ∀ e ∈ configFailures p c, ¬e.1) :
    configCodesOk p c = true ↔
      CodeIn p c.microsteps.toInt ∧ (c.microstepsSlewing = 0xFFFFFFFF#32 ∨ CodeIn p c.microstepsSlewing.toInt) := by
  obtain ⟨-, hcode, hslew, -⟩ := noConfigFailure_iff.1 h
  exact configCodesOk_iff hcode fun hoff => (hslew.resolve_left hoff).2.1

theorem configChecks_eq_ok_iff {p : Params} {c : DriverConfig} :
    configChecks p c = .ok ↔ ∀ e ∈ configFailures p c, ¬e.1 :=
  (configChecks_decides p c).ok_iff (configFailures_ne_ok p c)

/-- The configurations that `validateConfig` accepts (43_driver.md R198). -/
theorem validateConfig_accepts_iff {p : Params} {c : DriverConfig} :
    validateConfig p c = .ok ↔
      c.microsteps.toInt ∈ msCounts ∧ CodeIn p c.microsteps.toInt ∧
      (c.microstepsSlewing = 0xFFFFFFFF#32 ∨
        (c.microstepsSlewing.toInt ∈ msCounts ∧ CodeIn p c.microstepsSlewing.toInt ∧
          c.microstepsSlewing.toInt ≤ c.microsteps.toInt)) ∧
      (∀ x ∈ [c.currentHold, c.currentRun, c.currentGoto],
        x = 0xFFFFFFFF#32 ∨ (0 ≤ x.toInt ∧ x.toInt ≤ p.iMaxMa)) ∧
      (p.model.cls = .generic ∨ c.currentRun ≠ 0xFFFFFFFF#32) ∧ c.decay ∈ legalDecays p ∧
      (c.decaySlewing = 0xFFFFFFFF#32 ∨ c.decaySlewing ∈ legalDecays p) := by
  have hcode : ∀ m, CodeIn p m → subdivisionsToCode p m ≠ -1 := fun m h => (codeIn_iff.1 h).1
  rw [validateConfig_eq_ok_iff, configChecks_eq_ok_iff, and_congr_right configCodesOk_iff_of_noFailure,
    noConfigFailure_iff]
  simp only [not_badCurrent_iff]
  constructor
  · rintro ⟨⟨hcount, -, hslew, hrest⟩, hin, hslewIn⟩
    refine ⟨hcount, hin, ?_, hrest⟩
    by_cases hoff : c.microstepsSlewing = 0xFFFFFFFF#32
    · exact .inl hoff
    · obtain ⟨hcount', -, hle⟩ := hslew.resolve_left hoff
      exact .inr ⟨hcount', hslewIn.resolve_left hoff, hle⟩
  · rintro ⟨hcount, hin, hslew, hrest⟩
    exact ⟨⟨hcount, hcode _ hin, hslew.imp_right fun h => ⟨h.1, hcode _ h.2.1, h.2.2⟩, hrest⟩, hin,
      hslew.imp_right fun h => h.2.1⟩

/-- Settles O39: the checks are a list of which the first failing one decides, and the codes are looked at last. -/
theorem validConfigurationsAre : Obligations.ValidConfigurationsAre := by
  intro p c
  refine ⟨validateConfig_accepts_iff, fun r => ?_, ?_⟩
  · exact validateConfig_eq_refuse_iff.trans ((configChecks_decides p c).refused_iff (configFailures_ne_ok p c) r)
  · exact validateConfig_eq_unmodelled_iff.trans (and_congr configChecks_eq_ok_iff Iff.rfl |>.trans
      (and_congr_right fun h => not_congr (configCodesOk_iff_of_noFailure h)))

/-! ### Counts, codes and the step ratio -/

/-- The counts are the powers of two up to 256 (43_driver.md R192). -/
theorem exists_pow_of_mem_msCounts {m : Int} (h : m ∈ msCounts) : ∃ k : Nat, k ≤ 8 ∧ m = 2 ^ k := by
  have hall : ∀ m ∈ msCounts, ∃ k, k < 9 ∧ m = 2 ^ k := by decide
  obtain ⟨k, hk, hm⟩ := hall m h
  exact ⟨k, Nat.le_of_lt_succ hk, hm⟩

/-- Settles O40: a quotient of two powers of two, the lower one first. -/
theorem stepRatioIsPowerOfTwo : Obligations.StepRatioIsPowerOfTwo := by
  intro s hvalid
  obtain ⟨hcount, -, hslew, -⟩ := validateConfig_accepts_iff.1 hvalid
  refine ⟨fun hoff => if_pos hoff, fun hon => ?_⟩
  obtain ⟨hcount', -, hle⟩ := hslew.resolve_left hon
  obtain ⟨a, -, ha⟩ := exists_pow_of_mem_msCounts hcount
  obtain ⟨b, -, hb⟩ := exists_pow_of_mem_msCounts hcount'
  rw [ha, hb] at hle
  have hab : b ≤ a := (pow_le_pow_iff_right₀ (by decide)).1 hle
  have hpow : (2 : Int) ^ a = 2 ^ (a - b) * 2 ^ b := by rw [← pow_add, Nat.sub_add_cancel hab]
  have hratio : homeSteps s = 2 ^ (a - b) := by
    refine (if_neg hon).trans ?_
    rw [ha, hb, hpow]
    exact Int.mul_tdiv_cancel _ (by positivity)
  exact ⟨by rw [hratio, ha, hb, hpow], a - b, hratio⟩

theorem mresCode_two_pow (k : Nat) : mresCode (2 ^ k) = 8 - k := by
  have h : ((2 : Int) ^ k).toNat = 2 ^ k := by
    rw [show (2 : Int) ^ k = ((2 ^ k : Nat) : Int) by push_cast; rfl]
    exact Int.toNat_natCast _
  rw [mresCode, h, Nat.log2_two_pow]

/-- On a TMC model a count has the code of 43_driver.md R193. -/
theorem subdivisionsToCode_of_link {p : Params} (hc : p.model.cls ≠ .generic) {m : Int} (hm : m ∈ msCounts) :
    subdivisionsToCode p m = mresCode m := by
  have h := inMsSet_iff.2 hm
  unfold subdivisionsToCode
  cases hp : p.model <;> simp [h, hp, Model.cls] at hc ⊢

/-- On a generic model a count has no code or one of three bits (43_driver.md R194). -/
theorem subdivisionsToCode_of_generic {p : Params} (hp : ParamsOk p) (hc : p.model.cls = .generic) {m : Int}
    (hm : m ∈ msCounts) :
    subdivisionsToCode p m = -1 ∨ (0 ≤ subdivisionsToCode p m ∧ subdivisionsToCode p m ≤ 7) := by
  have h := inMsSet_iff.2 hm
  have ha : ∀ m ∈ msCounts, a4988Code m = -1 ∨ (0 ≤ a4988Code m ∧ a4988Code m ≤ 7) := by decide
  have hd : ∀ m ∈ msCounts, drv8825Code m = -1 ∨ (0 ≤ drv8825Code m ∧ drv8825Code m ≤ 7) := by decide
  have ht := hp.codes m
  unfold subdivisionsToCode
  cases hmod : p.model <;> simp [h, hmod, Model.cls] at hc ⊢
  · exact ha m hm
  · exact hd m hm
  · omega

/-- Settles O41: by the class of the model, and on a TMC model by the exponent of the count. -/
theorem microstepCodesAreValid : Obligations.MicrostepCodesAreValid := by
  intro p m hp
  refine ⟨fun hm => ?_, fun hm => ?_, fun hm hc => ?_⟩
  · by_cases hc : p.model.cls = .generic
    · rw [if_pos hc]
      exact subdivisionsToCode_of_generic hp hc hm
    · obtain ⟨k, hk, rfl⟩ := exists_pow_of_mem_msCounts hm
      rw [if_neg hc, subdivisionsToCode_of_link hc hm, mresCode_two_pow]
      omega
  · have h : inMsSet m = false := not_inMsSet_iff.2 hm
    simp [subdivisionsToCode, h, unsupportedCode]
  · obtain ⟨k, hk, rfl⟩ := exists_pow_of_mem_msCounts hm
    rw [subdivisionsToCode_of_link hc hm, mresCode_two_pow]
    push_cast
    rw [← zpow_natCast, ← zpow_add₀ (by norm_num), add_sub_cancel]
    norm_num

/-! ### The current formula -/

/-- For a quotient of 0 or more, rounding half away from zero is rounding half up (00_scope.md R8). -/
theorem roundHalfAway_eq_round {n : Int} (hn : 0 ≤ n) {d : Nat} (hd : 0 < d) :
    roundHalfAway n d = round ((n : ℚ) / d) := by
  obtain ⟨n, rfl⟩ := Int.eq_ofNat_of_zero_le hn
  have hhalf : ((n : Int) : ℚ) / d + 1 / 2 = ((2 * n + d : Int) : ℚ) / ((2 * d : Nat) : ℚ) := by
    push_cast
    field_simp
  rw [round_eq, hhalf, Rat.floor_intCast_div_natCast, roundHalfAway, if_pos hn, Int.natAbs_natCast]
  push_cast
  rfl

theorem clamp_eq {v lo hi : Int} (h : lo ≤ hi) : clamp v lo hi = max lo (min hi v) := by
  unfold clamp
  split
  · omega
  · split <;> omega

/-- Settles O42: the quotient of the model is the exact one of the formula. -/
theorem currentScaleFollowsFormula : Obligations.CurrentScaleFollowsFormula := by
  intro r halfMa hnum hden hcurrent
  have hpos : 0 < 2 * Config.vfsMillivolts * r.den := by
    have : 0 < Config.vfsMillivolts := by decide
    positivity
  have hquotient : ((halfMa : ℚ) / 2 / 1000) / ((325 / 1000) / ((r.num : ℚ) / (r.den : ℚ))) * 32 =
      ((halfMa * 32 * r.num : Int) : ℚ) / ((2 * Config.vfsMillivolts * r.den : Nat) : ℚ) := by
    have hnum' : (r.num : ℚ) ≠ 0 := by exact_mod_cast hnum.ne'
    have hden' : (r.den : ℚ) ≠ 0 := by exact_mod_cast hden.ne'
    simp only [Config.vfsMillivolts]
    push_cast
    field_simp
    ring
  rw [csOfHalfMa, clamp_eq (by decide), hquotient, roundHalfAway_eq_round (by positivity) hpos]

/-! ### The parameter commands -/

theorem cfgGet_cfgSet_same (c : DriverConfig) (id : ParamId) (v : Word) : cfgGet (cfgSet c id v) id = v := by
  cases id <;> rfl

theorem cfgGet_cfgSet_ne (c : DriverConfig) {id id' : ParamId} (v : Word) (h : id' ≠ id) :
    cfgGet (cfgSet c id v) id' = cfgGet c id' := by
  cases id <;> cases id' <;> simp [cfgGet, cfgSet] at h ⊢

section Commands

variable {p : BitVec 3} {id : ParamId} {v : Word} {s : State} (hid : paramOfField p = some id)
include hid

theorem parameterCommands_of_ok (h : validateConfig s.params (cfgSet s.cfg id v) = .ok) :
    execValParam p v s = .next (answered s 0x51#8 .ok 0#32) ∧
    (s.modeState = .tracking →
      execSetParam p v s = .next (answered { s with cfg := cfgSet s.cfg id v } 0x52#8 .ok 0#32)) := by
  refine ⟨hostCommand_answered ?_, fun hmode => hostCommand_answered (t := { s with cfg := cfgSet s.cfg id v }) ?_⟩
  · simp only [hid, beginMainLoop_params, beginMainLoop_cfg, h]
  · simp only [hid, beginMainLoop_params, beginMainLoop_cfg, h]
    exact if_neg (not_not.2 hmode)

theorem parameterCommands_of_refuse {r : Result} (h : validateConfig s.params (cfgSet s.cfg id v) = .refuse r) :
    execValParam p v s = .next (answered s 0x51#8 r 0#32) ∧
    (s.modeState = .tracking → execSetParam p v s = .next (answered s 0x52#8 r 0#32)) := by
  refine ⟨hostCommand_raise ?_, fun hmode => hostCommand_raise ?_⟩
  · simp only [hid, beginMainLoop_params, beginMainLoop_cfg, h]
  · simp only [hid, beginMainLoop_params, beginMainLoop_cfg, h]
    exact if_neg (not_not.2 hmode)

theorem parameterCommands_of_unmodelled (h : validateConfig s.params (cfgSet s.cfg id v) = .unmodelled) :
    execValParam p v s =
      .next (answered { s with faults := { s.faults with unmodelled := true } } 0x51#8 .fault 0#32) ∧
    (s.modeState = .tracking → execSetParam p v s =
      .next (answered { s with faults := { s.faults with unmodelled := true } } 0x52#8 .fault 0#32)) := by
  refine ⟨hostCommand_modelFault (f := .unmodelled) ?_, fun hmode => hostCommand_modelFault (f := .unmodelled) ?_⟩
  · simp only [hid, beginMainLoop_params, beginMainLoop_cfg, h]
  · simp only [hid, beginMainLoop_params, beginMainLoop_cfg, h]
    exact if_neg (not_not.2 hmode)

theorem getParam_answers : execGetParam p s = .next (answered s 0x53#8 .ok (cfgGet s.cfg id)) := by
  refine hostCommand_answered ?_
  simp only [hid, beginMainLoop_cfg]

end Commands

/-- Settles O43: by the id, and for an id that names a parameter by the verdict on the changed configuration. -/
theorem parameterCommandsValidate : Obligations.ParameterCommandsValidate := by
  intro p v s
  simp only [exec]
  refine ⟨fun id hid => ⟨fun h => ?_, fun r h => ⟨validateConfig_refuse h, parameterCommands_of_refuse hid h⟩,
    parameterCommands_of_unmodelled hid, getParam_answers hid⟩, ?_⟩
  · obtain ⟨hval, hset⟩ := parameterCommands_of_ok hid h
    exact ⟨hval, hset, cfgGet_cfgSet_same _ _ _, fun _ => cfgGet_cfgSet_ne _ _⟩
  · rintro rfl
    exact ⟨hostCommand_raise rfl, hostCommand_raise rfl, hostCommand_raise rfl⟩

end Sys2Proof.Proofs
end

section
/-! PROOFS. What a driver operation sets (43_driver.md R206 to R210, 45_bus.md R262): a list of pins on a generic model,
a list of registers on a TMC model, each once. One account of such a list, whatever ticks come in between, serves the four
mode operations and the setup of DRVINIT. -/

namespace Sys2Proof.Proofs

open Sys2Proof Sys2Proof.Machine Sys2Proof.Safety Sys2Proof.Laws

/-! ### Several register writes -/

/-- Register writes in order. -/
def writeAll (s : State) (regs : List (TmcReg × Word)) : State := regs.foldl (fun t e => regWrite t e.1 e.2) s

/-- The shadows after these writes (45_bus.md R262). -/
def setShadows (t : Shadows) (regs : List (TmcReg × Word)) : Shadows := regs.foldl (fun t e => setShadow t e.1 e.2) t

theorem shadowOf_setShadow_ne (t : Shadows) {r r' : TmcReg} (v : Word) (h : r' ≠ r) :
    shadowOf (setShadow t r v) r' = shadowOf t r' := by
  cases r <;> cases r' <;> simp [setShadow, shadowOf] at h ⊢

theorem shadowOf_setShadow_same (t : Shadows) {r : TmcReg} (v : Word) (h : r ≠ .drvStatus) :
    shadowOf (setShadow t r v) r = sent v := by
  cases r <;> simp [setShadow, shadowOf, sent] at h ⊢

theorem shadowOf_setShadows_of_not_mem (t : Shadows) {regs : List (TmcReg × Word)} {r : TmcReg}
    (h : r ∉ regs.map Prod.fst) : shadowOf (setShadows t regs) r = shadowOf t r := by
  induction regs generalizing t with
  | nil => rfl
  | cons e rest ih =>
    rw [List.map_cons, List.mem_cons, not_or] at h
    exact (ih _ h.2).trans (shadowOf_setShadow_ne t e.2 h.1)

/-- Where each register is written once, the shadow of each holds its value. -/
theorem shadowOf_setShadows_of_mem (t : Shadows) {regs : List (TmcReg × Word)} (hnodup : (regs.map Prod.fst).Nodup)
    (hshadow : .drvStatus ∉ regs.map Prod.fst) {e : TmcReg × Word} (he : e ∈ regs) :
    shadowOf (setShadows t regs) e.1 = sent e.2 := by
  induction regs generalizing t with
  | nil => cases he
  | cons a rest ih =>
    rw [List.map_cons, List.nodup_cons] at hnodup
    rw [List.map_cons, List.mem_cons, not_or] at hshadow
    rcases List.mem_cons.1 he with rfl | he
    · exact (shadowOf_setShadows_of_not_mem _ hnodup.1).trans (shadowOf_setShadow_same t _ (Ne.symm hshadow.1))
    · exact ih _ hnodup.2 hshadow.2 he

/-- `t` is `s` after these register writes, and ticks: the shadows, and what was sent. -/
structure WrittenAll (s t : State) (regs : List (TmcReg × Word)) : Prop where
  shadows : t.shadows = setShadows s.shadows regs
  pins : t.pins = s.pins
  params : t.params = s.params
  cfg : t.cfg = s.cfg
  enabled : t.enabled = s.enabled
  driverPins : driverPins t.history = driverPins s.history
  onSpi : s.params.model.cls = .tmcSpi →
    spiSent t.history = spiSent s.history ++ regs.flatMap (fun e => spiSends s e.1 e.2) ∧
      uartSent t.history = uartSent s.history
  onUart : s.params.model.cls = .tmcUart →
    uartSent t.history = uartSent s.history ++ regs.flatMap (fun e => uartSends s e.1 e.2) ∧
      spiSent t.history = spiSent s.history

/-- Writes to registers of which each comes once: no write is suppressed by another. -/
theorem writeAll_writtenAll (s : State) {regs : List (TmcReg × Word)} (hnodup : (regs.map Prod.fst).Nodup) :
    WrittenAll s (writeAll s regs) regs := by
  induction regs generalizing s with
  | nil => exact ⟨rfl, rfl, rfl, rfl, rfl, rfl, fun _ => by simp [writeAll], fun _ => by simp [writeAll]⟩
  | cons a rest ih =>
    rw [List.map_cons, List.nodup_cons] at hnodup
    have hfirst := regWrite_written s a.1 a.2
    have hpins := regWrite_driverPins s a.1 a.2
    have hrest := ih (regWrite s a.1 a.2) hnodup.2
    have hsends : ∀ e ∈ rest, spiSends (regWrite s a.1 a.2) e.1 e.2 = spiSends s e.1 e.2 ∧
        uartSends (regWrite s a.1 a.2) e.1 e.2 = uartSends s e.1 e.2 := fun e he =>
      sends_congr e.2 hfirst.params (by
        rw [hfirst.shadows]
        exact shadowOf_setShadow_ne _ _ fun h => hnodup.1 (h ▸ List.mem_map_of_mem he))
    have hspi := List.flatMap_congr fun e he => (hsends e he).1
    have huart := List.flatMap_congr fun e he => (hsends e he).2
    refine ⟨hrest.shadows.trans (by rw [hfirst.shadows]; rfl), hrest.pins.trans hfirst.pins,
      hrest.params.trans hfirst.params, hrest.cfg.trans hfirst.cfg, hrest.enabled.trans hfirst.enabled,
      hrest.driverPins.trans hpins, fun hc => ?_, fun hc => ?_⟩
    · obtain ⟨hs, hu⟩ := hrest.onSpi (by rwa [hfirst.params])
      obtain ⟨hs', hu'⟩ := hfirst.onSpi hc
      exact ⟨hs.trans (by rw [hs', hspi, List.append_assoc, List.flatMap_cons]), hu.trans hu'⟩
    · obtain ⟨hu, hs⟩ := hrest.onUart (by rwa [hfirst.params])
      obtain ⟨hu', hs'⟩ := hfirst.onUart hc
      exact ⟨hu.trans (by rw [hu', huart, List.append_assoc, List.flatMap_cons]), hs.trans hs'⟩

/-- Writes of what the shadows validly hold do nothing at all. -/
theorem writeAll_of_sent {s : State} {regs : List (TmcReg × Word)}
    (h : ∀ e ∈ regs, shadowOf s.shadows e.1 = sent e.2) : writeAll s regs = s := by
  induction regs with
  | nil => rfl
  | cons a rest ih =>
    obtain ⟨ha, hrest⟩ := List.forall_mem_cons.1 h
    rw [writeAll, List.foldl_cons, regWrite_of_sent ha]
    exact ih hrest

/-! ### Several pins -/

/-- Pins driven in order, each with the point before its event (log 26). -/
def driveAll (s : State) (pins : List (Pin × Level)) : State := pins.foldl (fun t e => drivePin t e.1 e.2) s

/-- The state with these levels stored, and nothing else. -/
def storePins (s : State) (pins : List (Pin × Level)) : State := pins.foldl (fun t e => storePin t e.1 e.2) s

theorem pinLevel_storePin_ne (s : State) {p p' : Pin} (l : Level) (h : p' ≠ p) :
    pinLevel (storePin s p l) p' = pinLevel s p' := by
  cases p <;> cases p' <;> simp [storePin, pinLevel, pinDir] at h ⊢

theorem pinLevel_storePin_same (s : State) {p : Pin} (l : Level) (h : p ≠ .dir) :
    pinLevel (storePin s p l) p = some l := by
  cases p <;> simp [storePin, pinLevel] at h ⊢

theorem pinLevel_storePins_of_not_mem (s : State) {pins : List (Pin × Level)} {p : Pin}
    (h : p ∉ pins.map Prod.fst) : pinLevel (storePins s pins) p = pinLevel s p := by
  induction pins generalizing s with
  | nil => rfl
  | cons e rest ih =>
    rw [List.map_cons, List.mem_cons, not_or] at h
    exact (ih _ h.2).trans (pinLevel_storePin_ne s e.2 h.1)

/-- Where each pin is driven once, each stands at its level. -/
theorem pinLevel_storePins_of_mem (s : State) {pins : List (Pin × Level)} (hnodup : (pins.map Prod.fst).Nodup)
    (hdir : .dir ∉ pins.map Prod.fst) {e : Pin × Level} (he : e ∈ pins) :
    pinLevel (storePins s pins) e.1 = some e.2 := by
  induction pins generalizing s with
  | nil => cases he
  | cons a rest ih =>
    rw [List.map_cons, List.nodup_cons] at hnodup
    rw [List.map_cons, List.mem_cons, not_or] at hdir
    rcases List.mem_cons.1 he with rfl | he
    · exact (pinLevel_storePins_of_not_mem _ hnodup.1).trans (pinLevel_storePin_same s _ (Ne.symm hdir.1))
    · exact ih _ hnodup.2 hdir.2 he

theorem storePins_pins_congr {s t : State} (h : t.pins = s.pins) (pins : List (Pin × Level)) :
    (storePins t pins).pins = (storePins s pins).pins := by
  induction pins generalizing s t with
  | nil => exact h
  | cons e rest ih => exact ih (storePin_pins_congr h e.1 e.2)

theorem pinSends_congr {s t : State} {p : Pin} (h : pinLevel t p = pinLevel s p) (l : Level) :
    pinSends t p l = pinSends s p l := by rw [pinSends, pinSends, h]

/-- Pins of which each is driven once: they hold their levels, and one event tells each change. -/
theorem driveAll_effect (s : State) {pins : List (Pin × Level)} (hnodup : (pins.map Prod.fst).Nodup)
    (hdir : .dir ∉ pins.map Prod.fst) :
    DriverSame { s with pins := (storePins s pins).pins } (driveAll s pins) ∧
      driverPins (driveAll s pins).history = driverPins s.history ++ pins.flatMap (fun e => pinSends s e.1 e.2) := by
  induction pins generalizing s with
  | nil => exact ⟨DriverSame.refl s, by simp [driveAll]⟩
  | cons a rest ih =>
    rw [List.map_cons, List.nodup_cons] at hnodup
    rw [List.map_cons, List.mem_cons, not_or] at hdir
    obtain ⟨hfirst, hevent⟩ := drivePin_effect s (Ne.symm hdir.1) a.2
    obtain ⟨hrest, hevents⟩ := ih (drivePin s a.1 a.2) hnodup.2 hdir.2
    have hsends : ∀ e ∈ rest, pinSends (drivePin s a.1 a.2) e.1 e.2 = pinSends s e.1 e.2 := by
      intro e he
      have hmem : e.1 ∈ rest.map Prod.fst := List.mem_map_of_mem he
      exact pinSends_congr
        ((pinLevel_congr (s := storePin s a.1 a.2) hfirst.pins fun h => hdir.2 (h ▸ hmem)).trans
          (pinLevel_storePin_ne s a.2 fun h => hnodup.1 (by rwa [h] at hmem))) e.2
    have hpins := hrest.pins.trans (storePins_pins_congr (s := storePin s a.1 a.2) hfirst.pins rest)
    refine ⟨⟨hrest.shadows.trans hfirst.shadows, hpins,
      hrest.params.trans hfirst.params, hrest.cfg.trans hfirst.cfg, hrest.driverReady.trans hfirst.driverReady,
      hrest.enabled.trans hfirst.enabled, hrest.spi.trans hfirst.spi, hrest.uart.trans hfirst.uart⟩, ?_⟩
    rw [List.flatMap_cons, ← List.append_assoc, ← hevent, ← List.flatMap_congr hsends]
    exact hevents

/-- Pins that stand at their levels stay as they are. -/
theorem driveAll_of_levels {s : State} {pins : List (Pin × Level)} (h : ∀ e ∈ pins, pinLevel s e.1 = some e.2) :
    driveAll s pins = s := by
  induction pins with
  | nil => rfl
  | cons a rest ih =>
    obtain ⟨ha, hrest⟩ := List.forall_mem_cons.1 h
    rw [driveAll, List.foldl_cons, drivePin_of_level ha]
    exact ih hrest

/-! ### Settings -/

/-- What a driver operation sets: the pins of a generic model, or the registers of a TMC model. -/
structure Settings where
  pins : List (Pin × Level)
  regs : List (TmcReg × Word)

/-- Each driver pin, and each register with a shadow, at most once. -/
structure Settings.Distinct (c : Settings) : Prop where
  pins : (c.pins.map Prod.fst).Nodup
  dir : .dir ∉ c.pins.map Prod.fst
  regs : (c.regs.map Prod.fst).Nodup
  drvStatus : .drvStatus ∉ c.regs.map Prod.fst

/-- An operation with these settings, by the class of the model. -/
def applySettings (s : State) (c : Settings) : State :=
  if s.params.model.cls = .generic then driveAll s c.pins else writeAll s c.regs

/-- `t` is `s` after an operation with the settings `c`, and ticks. -/
structure Configured (s t : State) (c : Settings) : Prop where
  params : t.params = s.params
  cfg : t.cfg = s.cfg
  enabled : t.enabled = s.enabled
  onSpi : s.params.model.cls = .tmcSpi →
    spiSent t.history = spiSent s.history ++ c.regs.flatMap (fun e => spiSends s e.1 e.2) ∧
      uartSent t.history = uartSent s.history
  onUart : s.params.model.cls = .tmcUart →
    uartSent t.history = uartSent s.history ++ c.regs.flatMap (fun e => uartSends s e.1 e.2) ∧
      spiSent t.history = spiSent s.history
  onLink : s.params.model.cls ≠ .generic →
    t.shadows = setShadows s.shadows c.regs ∧ t.pins = s.pins ∧ driverPins t.history = driverPins s.history
  onPins : s.params.model.cls = .generic →
    t.shadows = s.shadows ∧ spiSent t.history = spiSent s.history ∧ uartSent t.history = uartSent s.history ∧
      t.pins = (storePins s c.pins).pins ∧
      driverPins t.history = driverPins s.history ++ c.pins.flatMap (fun e => pinSends s e.1 e.2)

theorem applySettings_configured (s : State) {c : Settings} (h : c.Distinct) : Configured s (applySettings s c) c := by
  unfold applySettings
  split
  · rename_i hc
    obtain ⟨hsame, hpins⟩ := driveAll_effect s h.pins h.dir
    exact {
      params := hsame.params, cfg := hsame.cfg, enabled := hsame.enabled
      onSpi := fun hspi => absurd (hc.symm.trans hspi) (by decide)
      onUart := fun huart => absurd (hc.symm.trans huart) (by decide)
      onLink := fun hlink => absurd hc hlink
      onPins := fun _ => ⟨hsame.shadows, hsame.spi, hsame.uart, hsame.pins, hpins⟩ }
  · rename_i hc
    have hall := writeAll_writtenAll s h.regs
    exact {
      params := hall.params, cfg := hall.cfg, enabled := hall.enabled, onSpi := hall.onSpi, onUart := hall.onUart
      onLink := fun _ => ⟨hall.shadows, hall.pins, hall.driverPins⟩
      onPins := fun hpins => absurd hpins hc }

/-- With the shadows and pins as an operation left them, the same operation does nothing (43_driver.md R220). -/
theorem applySettings_again {s u : State} {c : Settings} (h : c.Distinct) (hp : u.params = s.params)
    (hshadows : u.shadows = (applySettings s c).shadows) (hpins : u.pins = (applySettings s c).pins) :
    applySettings u c = u := by
  have hset := applySettings_configured s h
  unfold applySettings
  rw [hp]
  split
  · rename_i hc
    obtain ⟨-, -, -, hleft, -⟩ := hset.onPins hc
    refine driveAll_of_levels fun e he => ?_
    rw [pinLevel_congr (hpins.trans hleft) fun hdir => h.dir (hdir ▸ List.mem_map_of_mem he)]
    exact pinLevel_storePins_of_mem s h.pins h.dir he
  · rename_i hc
    obtain ⟨hleft, -, -⟩ := hset.onLink hc
    refine writeAll_of_sent fun e he => ?_
    rw [hshadows, hleft]
    exact shadowOf_setShadows_of_mem s.shadows h.regs h.drvStatus he

end Sys2Proof.Proofs
end

section
/-! PROOFS. The four mode operations and DRVINIT (43_driver.md R202 to R212, R220), each by its settings. -/

namespace Sys2Proof.Proofs

open Sys2Proof Sys2Proof.Machine Sys2Proof.Safety Sys2Proof.Laws

/-! ### The settings of the mode operations -/

/-- The microstep settings of a phase (43_driver.md R206, R207). -/
def microstepSettings (s : State) (x : Phase) : Settings where
  pins :=
    if s.params.hasMPins = true then
      [(.m0, bitLevel (codeOf s x) 0), (.m1, bitLevel (codeOf s x) 1), (.m2, bitLevel (codeOf s x) 2)]
    else []
  regs := [(.iholdIrun, ihr s.params s.cfg x), (.chopconf, chopconf s.params.chopconfBase (codeOf s x))]

/-- The decay settings of a phase (43_driver.md R208, R209). -/
def decaySettings (s : State) (x : Phase) : Settings where
  pins :=
    if s.params.hasDecayPin = true then [(.decay, decayLevelOf s.params.decayLevels (decOf s.cfg x))] else []
  regs := [(.gconf, gconfOf s.params (decOf s.cfg x))]

theorem setMicrostep_eq (s : State) (x : Phase) : setMicrostep s x = applySettings s (microstepSettings s x) := by
  unfold applySettings microstepSettings
  split
  · rw [setMicrostep_of_generic x ‹_›]
    split <;> rfl
  · exact setMicrostep_of_link x ‹_›

theorem setDecay_eq (s : State) (x : Phase) : setDecay s x = applySettings s (decaySettings s x) := by
  unfold applySettings decaySettings
  split
  · rw [setDecay_of_generic x ‹_›]
    split <;> rfl
  · exact setDecay_of_link x ‹_›

theorem microstepSettings_distinct (s : State) (x : Phase) : (microstepSettings s x).Distinct := by
  unfold microstepSettings
  refine ⟨?_, ?_, by simp, by simp⟩ <;> cases s.params.hasMPins <;> simp

theorem decaySettings_distinct (s : State) (x : Phase) : (decaySettings s x).Distinct := by
  unfold decaySettings
  refine ⟨?_, ?_, by simp, by simp⟩ <;> cases s.params.hasDecayPin <;> simp

/-- The settings come from the parameters and the configuration alone. -/
theorem settings_congr {s t : State} (hp : t.params = s.params) (hc : t.cfg = s.cfg) (x : Phase) :
    microstepSettings t x = microstepSettings s x ∧ decaySettings t x = decaySettings s x := by
  simp only [microstepSettings, decaySettings, codeOf, hp, hc, and_self]

theorem setMicrostep_configured (s : State) (x : Phase) : Configured s (setMicrostep s x) (microstepSettings s x) := by
  rw [setMicrostep_eq]
  exact applySettings_configured s (microstepSettings_distinct s x)

theorem setDecay_configured (s : State) (x : Phase) : Configured s (setDecay s x) (decaySettings s x) := by
  rw [setDecay_eq]
  exact applySettings_configured s (decaySettings_distinct s x)

/-- On a TMC model the GCONF value is that of its link. -/
theorem gconfOf_of_link {p : Params} (hc : p.model.cls ≠ .generic) (d : Word) :
    gconfOf p d = if p.model.cls = .tmcUart then gconfUart p d else gconfSpi d := by
  unfold gconfOf
  cases h : p.model.cls with
  | generic => exact absurd h hc
  | tmcSpi => rfl
  | tmcUart => rfl

/-! ### The mode operations -/

/-- A mode operation is `setMicrostep` or `setDecay` of its phase (43_driver.md R206 to R209). -/
theorem exec_modeOperations {x : Phase} {ms dec : Instr}
    (hi : (x = .track ∧ ms = .drvMsTrack ∧ dec = .drvDecayTrack) ∨
      (x = .slew ∧ ms = .drvMsSlew ∧ dec = .drvDecaySlew)) {s : State} (hp : ParamsOk s.params) :
    exec ms s = .next (setMicrostep s x) ∧ exec dec s = .next (setDecay s x) := by
  rcases hi with ⟨rfl, rfl, rfl⟩ | ⟨rfl, rfl, rfl⟩
  · exact ⟨exec_drvMsTrack hp, exec_drvDecayTrack hp⟩
  · exact ⟨exec_drvMsSlew hp, exec_drvDecaySlew hp⟩

/-- Settles O45, by the settings of the two operations of a phase. -/
theorem modeOperationsWriteRegisters : Obligations.ModeOperationsWriteRegisters := by
  intro x ms dec s hi hp
  have hS := stable_onlyDriverAndTicks s
  have hrefl := onlyDriverAndTicks_refl s
  have ht := setMicrostep_configured s x
  have hu := setDecay_configured s x
  refine ⟨_, _, (exec_modeOperations hi hp).1, (exec_modeOperations hi hp).2, hS.setMicrostep x hrefl,
    hS.setDecay x hrefl, fun hpre => ⟨setMicrostep_onlyDriver hpre (onlyDriver_refl s),
      setDecay_onlyDriver hpre (onlyDriver_refl s)⟩, fun hc => ?_, fun hc => ?_, fun hc => ?_, fun hc => ?_⟩
  · obtain ⟨htsh, htpins, htevents⟩ := ht.onLink hc
    obtain ⟨hush, hupins, huevents⟩ := hu.onLink hc
    refine ⟨htsh, ?_, htpins, hupins, htevents, huevents⟩
    rw [hush, ← gconfOf_of_link hc]
    rfl
  · have hlink : s.params.model.cls ≠ .generic := by rw [hc]; decide
    obtain ⟨htspi, htuart⟩ := ht.onSpi hc
    obtain ⟨huspi, huuart⟩ := hu.onSpi hc
    rw [← gconfOf_of_link hlink]
    exact ⟨by rw [htspi]; simp [microstepSettings], by rw [huspi]; simp [decaySettings], htuart, huuart⟩
  · have hlink : s.params.model.cls ≠ .generic := by rw [hc]; decide
    obtain ⟨htuart, htspi⟩ := ht.onUart hc
    obtain ⟨huuart, huspi⟩ := hu.onUart hc
    rw [← gconfOf_of_link hlink]
    exact ⟨by rw [htuart]; simp [microstepSettings], by rw [huuart]; simp [decaySettings], htspi, huspi⟩
  · obtain ⟨htsh, htspi, htuart, htpins, htevents⟩ := ht.onPins hc
    obtain ⟨hush, huspi, huuart, hupins, huevents⟩ := hu.onPins hc
    refine ⟨htsh, hush, htspi, htuart, huspi, huuart, htpins.trans ?_, hupins.trans ?_, htevents.trans ?_,
      huevents.trans ?_⟩
    · cases h : s.params.hasMPins <;> simp [microstepSettings, h, storePins, storePin]
    · cases h : s.params.hasDecayPin <;> simp [decaySettings, h, storePins, storePin]
    · cases h : s.params.hasMPins <;> simp [microstepSettings, h]
    · cases h : s.params.hasDecayPin <;> simp [decaySettings, h]

/-- `i` is, where no parameter is bad, an operation whose settings come from the parameters and the configuration. -/
def AppliesSettings (i : Instr) : Prop :=
  ∃ settings : State → Settings, (∀ s, (settings s).Distinct) ∧
    (∀ s t, t.params = s.params → t.cfg = s.cfg → settings t = settings s) ∧
    ∀ s, ParamsOk s.params → exec i s = .next (applySettings s (settings s))

theorem appliesSettings_of_setMicrostep {i : Instr} (x : Phase)
    (h : ∀ s, ParamsOk s.params → exec i s = .next (setMicrostep s x)) : AppliesSettings i :=
  ⟨(microstepSettings · x), (microstepSettings_distinct · x), fun _ _ hp hc => (settings_congr hp hc x).1,
    fun s hp => (h s hp).trans (congrArg _ (setMicrostep_eq s x))⟩

theorem appliesSettings_of_setDecay {i : Instr} (x : Phase)
    (h : ∀ s, ParamsOk s.params → exec i s = .next (setDecay s x)) : AppliesSettings i :=
  ⟨(decaySettings · x), (decaySettings_distinct · x), fun _ _ hp hc => (settings_congr hp hc x).2,
    fun s hp => (h s hp).trans (congrArg _ (setDecay_eq s x))⟩

theorem modeOperation_appliesSettings {i : Instr}
    (h : i ∈ [Instr.drvMsTrack, .drvMsSlew, .drvDecayTrack, .drvDecaySlew]) : AppliesSettings i := by
  simp only [List.mem_cons, List.not_mem_nil, or_false] at h
  rcases h with rfl | rfl | rfl | rfl
  · exact appliesSettings_of_setMicrostep .track fun _ => exec_drvMsTrack
  · exact appliesSettings_of_setMicrostep .slew fun _ => exec_drvMsSlew
  · exact appliesSettings_of_setDecay .track fun _ => exec_drvDecayTrack
  · exact appliesSettings_of_setDecay .slew fun _ => exec_drvDecaySlew

/-- Settles O46: the settings are the same again, and the shadows and pins hold them. -/
theorem repeatedModeOperationIsSilent : Obligations.RepeatedModeOperationIsSilent := by
  intro i s t u hi hp ht hparams hcfg hshadows hpins
  obtain ⟨settings, hdistinct, hcongr, hexec⟩ := modeOperation_appliesSettings hi
  have hset := applySettings_configured s (hdistinct s)
  rw [hexec s hp] at ht
  cases ht
  have hp' : u.params = s.params := hparams.trans hset.params
  rw [hexec u (by rwa [hp']), hcongr s u hp' (hcfg.trans hset.cfg)]
  exact congrArg _ (applySettings_again (hdistinct s) hp' hshadows hpins)

/-! ### The setup of DRVINIT -/

/-- The settings of a DRVINIT: those of tracking, and the two fixed registers (43_driver.md R202). -/
def setupSettings (s : State) : Settings where
  pins := (microstepSettings s .track).pins ++ (decaySettings s .track).pins
  regs := (microstepSettings s .track).regs ++ [(.pwmconf, pwmconfValue s.params)] ++ (decaySettings s .track).regs ++
    [(.coolconf, coolconfValue s.params)]

theorem setupSettings_distinct (s : State) : (setupSettings s).Distinct := by
  unfold setupSettings microstepSettings decaySettings
  refine ⟨?_, ?_, by simp, by simp⟩ <;> cases s.params.hasMPins <;> cases s.params.hasDecayPin <;> simp

theorem driverSetup_settings (s : State) : driverSetup s = applySettings s (setupSettings s) := by
  have hms := setMicrostep_configured s .track
  rw [driverSetup_eq, applySettings]
  split
  · rename_i hc
    have hms' : setMicrostep s .track = driveAll s (microstepSettings s .track).pins :=
      (setMicrostep_eq s .track).trans (if_pos hc)
    rw [setDecay_eq, applySettings, hms.params, if_pos hc, (settings_congr hms.params hms.cfg .track).2, hms', driveAll,
      driveAll, ← List.foldl_append]
    rfl
  · rename_i hc
    have hpwm := regWrite_written (setMicrostep s .track) .pwmconf (pwmconfValue s.params)
    have hparams := hpwm.params.trans hms.params
    have hms' : setMicrostep s .track = writeAll s (microstepSettings s .track).regs :=
      (setMicrostep_eq s .track).trans (if_neg hc)
    have hdec := (settings_congr hparams (hpwm.cfg.trans hms.cfg) .track).2
    rw [setDecay_eq, applySettings, hparams, if_neg hc, hdec, hms']
    simp only [writeAll, setupSettings, List.foldl_append, List.foldl_cons, List.foldl_nil]

theorem driverSetup_configured (s : State) : Configured s (driverSetup s) (setupSettings s) := by
  rw [driverSetup_settings]
  exact applySettings_configured s (setupSettings_distinct s)

/-! ### Writes after the shadows are invalidated -/

theorem sends_of_invalid {s : State} {r : TmcReg} (h : (shadowOf s.shadows r).valid = false) (v : Word) :
    spiSends s r v = [spiWriteFrame s.params r v] ∧ uartSends s r v = [uartWrite s.params r v] := by
  simp [spiSends, uartSends, writeSuppressed, h]

theorem shadowOf_invalidateShadows (t : Shadows) (r : TmcReg) : (shadowOf (invalidateShadows t) r).valid = false := by
  cases r <;> rfl

/-- The state in which the setup of a DRVINIT starts: no write is suppressed (43_driver.md R202, R203). -/
def setupStart (s : State) : State := { beginMainLoop s with shadows := invalidateShadows s.shadows }

/-- Every register write from there is sent. -/
theorem flatMap_sends_setupStart (s : State) (regs : List (TmcReg × Word)) :
    regs.flatMap (fun e => spiSends (setupStart s) e.1 e.2) = regs.map (fun e => spiWriteFrame s.params e.1 e.2) ∧
    regs.flatMap (fun e => uartSends (setupStart s) e.1 e.2) = regs.map (fun e => uartWrite s.params e.1 e.2) := by
  have hsends (r : TmcReg) := sends_of_invalid (s := setupStart s) (shadowOf_invalidateShadows s.shadows r)
  constructor
  · rw [List.flatMap_congr fun e _ => (hsends e.1 e.2).1]
    exact List.flatMap_pure_eq_map _ _
  · rw [List.flatMap_congr fun e _ => (hsends e.1 e.2).2]
    exact List.flatMap_pure_eq_map _ _

/-! ### The end of DRVINIT -/

@[simp] theorem spiSent_respond (s : State) (op : Byte) (r : Result) (v : Word) :
    spiSent (respond s op r v).history = spiSent s.history := by simp [spiFrameOf]

@[simp] theorem uartSent_respond (s : State) (op : Byte) (r : Result) (v : Word) :
    uartSent (respond s op r v).history = uartSent s.history := by simp [uartBytesOf]

@[simp] theorem driverPins_respond (s : State) (op : Byte) (r : Result) (v : Word) :
    driverPins (respond s op r v).history = driverPins s.history := by simp [driverPinOf]

/-- `t` is `s` after EN has been set to follow `enabled`, and ticks (43_driver.md R202, R218). -/
structure Armed (s t : State) : Prop where
  shadows : t.shadows = s.shadows
  pins : t.pins = { s.pins with en := enLevel s s.enabled }
  spi : spiSent t.history = spiSent s.history
  uart : uartSent t.history = uartSent s.history
  driverPins : driverPins t.history = driverPins s.history ++ pinSends s .en (enLevel s s.enabled)

theorem armDriver_armed (s : State) : Armed s (armDriver s) := by
  have hsame := preemptPoint_driverSame s
  have hevents := preemptPoint_driverPins s
  unfold armDriver
  generalize preemptPoint s = u at *
  have hset := setPin_effect { u with driverReady := true } .en (enLevel s s.enabled)
  have hlevel : pinLevel { u with driverReady := true } .en = pinLevel s .en :=
    pinLevel_congr (t := { u with driverReady := true }) hsame.pins (by decide)
  have hen : power { u with driverReady := true } s.enabled = setPin { u with driverReady := true } .en
      (enLevel s s.enabled) := by rw [enLevel, ← hsame.params]; rfl
  rw [hen]
  exact {
    shadows := hset.shadows.trans hsame.shadows
    pins := hset.pins.trans (by rw [← hsame.pins]; rfl)
    spi := hset.spi.trans hsame.spi
    uart := hset.uart.trans hsame.uart
    driverPins := by
      rw [setPin_driverPins _ (by decide), pinSends_congr hlevel]
      exact congrArg (· ++ _) hevents }

theorem stable_graceTick : Stable (fun s => s.graceTick = false) where
  tick _ h := takeTick_graceTick h
  preempt _ _ h := h
  driver _ _ _ _ _ _ h := h

/-- What a DRVINIT writes beside the driver's registers and pins. -/
theorem armDriver_frame {s t : State} (h : OnlyDriverAndTicks s t) :
    OnlyDriverAndTicks { s with driverReady := true } (armDriver t) := by
  have hpoint := (stable_onlyDriverAndTicks s).preemptPoint h
  refine (stable_onlyDriverAndTicks _).setPin .en _ ?_
  unfold OnlyDriverAndTicks at *
  rw [hpoint]

theorem armDriver_graceTick {s : State} (h : s.graceTick = false) : (armDriver s).graceTick = false :=
  stable_graceTick.setPin (s := { preemptPoint s with driverReady := true }) .en _ (preemptPoint_graceTick h)

/-- A DRVINIT of a valid configuration, as the steps that it takes. -/
theorem execDrvInit_of_valid {s : State} (hmode : s.modeState = .tracking)
    (hvalid : validateConfig s.params s.cfg = .ok) (hp : ParamsOk s.params) :
    execDrvInit s = .next (respond (armDriver (driverSetup (setupStart s))) 0x50#8 .ok 0#32) := by
  refine hostCommand_done ((if_neg (not_not.2 hmode)).trans ?_)
  have hbad : driverSetupBad (setupStart s) = false := driverSetupBad_of_paramsOk hp
  simp only [beginMainLoop_params, beginMainLoop_cfg, hvalid]
  exact if_neg (by rw [← Bool.not_eq_true] at hbad; exact hbad)

theorem onlyDriverAndTicks_answer {s t : State} (h : OnlyDriverAndTicks s t) (op : Byte) (r : Result) (v : Word) :
    OnlyDriverAndTicks s (respond t op r v) := by
  unfold OnlyDriverAndTicks respond emit at *
  rw [h]

/-- On a TMC model the setup writes these five registers, in this order (43_driver.md R202). -/
theorem setupSettings_regs {s : State} (hc : s.params.model.cls ≠ .generic) :
    (setupSettings (setupStart s)).regs =
      [(.iholdIrun, ihr s.params s.cfg .track), (.chopconf, chopconf s.params.chopconfBase (codeOf s .track)),
       (.pwmconf, s.params.pwmconfValue),
       (.gconf, if s.params.model.cls = .tmcUart then gconfUart s.params s.cfg.decay else gconfSpi s.cfg.decay),
       (.coolconf, s.params.coolconfValue)] := by
  rw [← gconfOf_of_link hc]
  rfl

/-- The setup drives the M pins and then DECAY, where there are any; EN comes later. -/
theorem en_not_mem_setupSettings (s : State) : Pin.en ∉ (setupSettings s).pins.map Prod.fst := by
  unfold setupSettings microstepSettings decaySettings
  cases s.params.hasMPins <;> cases s.params.hasDecayPin <;> simp

/-- The pins that the setup of a generic model leaves. -/
theorem storePins_setupStart (s : State) :
    (storePins (setupStart s) (setupSettings (setupStart s)).pins).pins =
      { s.pins with
        m0 := if s.params.hasMPins = true then some (bitLevel (codeOf s .track) 0) else s.pins.m0
        m1 := if s.params.hasMPins = true then some (bitLevel (codeOf s .track) 1) else s.pins.m1
        m2 := if s.params.hasMPins = true then some (bitLevel (codeOf s .track) 2) else s.pins.m2
        decay := if s.params.hasDecayPin = true then some (decayLevelOf s.params.decayLevels s.cfg.decay)
          else s.pins.decay } := by
  have hparams : (setupStart s).params = s.params := rfl
  unfold setupSettings microstepSettings decaySettings
  rw [hparams]
  cases s.params.hasMPins <;> cases s.params.hasDecayPin <;> rfl

/-- The PIN events of the setup of a generic model. -/
theorem pinSends_setupStart (s : State) :
    (setupSettings (setupStart s)).pins.flatMap (fun e => pinSends (setupStart s) e.1 e.2) =
      (if s.params.hasMPins = true then
        pinSends s .m0 (bitLevel (codeOf s .track) 0) ++ pinSends s .m1 (bitLevel (codeOf s .track) 1) ++
          pinSends s .m2 (bitLevel (codeOf s .track) 2) else []) ++
      (if s.params.hasDecayPin = true then pinSends s .decay (decayLevelOf s.params.decayLevels s.cfg.decay)
        else []) := by
  have hparams : (setupStart s).params = s.params := rfl
  have hcode : codeOf (setupStart s) .track = codeOf s .track := rfl
  have hcfg : decOf (setupStart s).cfg .track = s.cfg.decay := rfl
  have hsends : ∀ e : Pin × Level, pinSends (setupStart s) e.1 e.2 = pinSends s e.1 e.2 := fun _ => rfl
  unfold setupSettings microstepSettings decaySettings
  rw [hparams, hcode, hcfg]
  cases s.params.hasMPins <;> cases s.params.hasDecayPin <;> simp [hsends]

/-- Settles O44: the settings of the setup, from shadows that suppress nothing, and then EN. -/
theorem drvInitConfiguresDriver : Obligations.DrvInitConfiguresDriver := by
  intro s hmode hvalid hp
  have hexec := execDrvInit_of_valid hmode hvalid hp
  have hset := driverSetup_configured (setupStart s)
  have hframe : OnlyDriverAndTicks s (driverSetup (setupStart s)) := (stable_onlyDriverAndTicks s).driverSetup rfl
  have hgrace : (driverSetup (setupStart s)).graceTick = false := stable_graceTick.driverSetup rfl
  have hmode' := (execDrvInit_standsOrGates hexec).stands (by rw [hmode]; decide)
  generalize driverSetup (setupStart s) = u at *
  have harm := armDriver_armed u
  have hen : enLevel u u.enabled = enLevel s s.enabled := by
    rw [enLevel, hset.params, hset.enabled]
    rfl
  have hspi := (spiSent_respond (armDriver u) 0x50#8 .ok 0#32).trans harm.spi
  have huart := (uartSent_respond (armDriver u) 0x50#8 .ok 0#32).trans harm.uart
  have hevents := (driverPins_respond (armDriver u) 0x50#8 .ok 0#32).trans harm.driverPins
  obtain ⟨hspiAll, huartAll⟩ := flatMap_sends_setupStart s (setupSettings (setupStart s)).regs
  refine ⟨_, hexec, onlyDriverAndTicks_answer (armDriver_frame hframe) _ _ _, armDriver_graceTick hgrace,
    hmode'.1.trans hmode, ⟨_, rfl⟩, fun hc => ?_, fun hc => ?_, fun hc => ?_, fun hc => ?_⟩
  · obtain ⟨hs, hu⟩ := hset.onSpi hc
    rw [hspiAll, setupSettings_regs (by rw [hc]; decide)] at hs
    exact ⟨hspi.trans hs, huart.trans hu⟩
  · obtain ⟨hu, hs⟩ := hset.onUart hc
    rw [huartAll, setupSettings_regs (by rw [hc]; decide)] at hu
    exact ⟨huart.trans hu, hspi.trans hs⟩
  · obtain ⟨hsh, hpins, hpinEvents⟩ := hset.onLink hc
    rw [setupSettings_regs hc] at hsh
    refine ⟨harm.shadows.trans hsh, harm.pins.trans (by rw [hpins, hen]; rfl), hevents.trans ?_⟩
    rw [hpinEvents, hen, pinSends_congr (pinLevel_congr hpins (by decide))]
    rfl
  · obtain ⟨hsh, hs, hu, hpins, hpinEvents⟩ := hset.onPins hc
    have hlevel : pinLevel u .en = pinLevel s .en :=
      (pinLevel_congr hpins (by decide)).trans (pinLevel_storePins_of_not_mem _ (en_not_mem_setupSettings _))
    refine ⟨hspi.trans hs, huart.trans hu, harm.shadows.trans hsh, harm.pins.trans ?_, hevents.trans ?_⟩
    · rw [hpins, storePins_setupStart, hen]
    · rw [hpinEvents, pinSends_setupStart, hen, pinSends_congr hlevel, ← List.append_assoc]
      rfl

end Sys2Proof.Proofs
end

section
/-! PROOFS. The status read and the status poll (43_driver.md R214, R215, R217, 45_bus.md R264, R265, R270 to R272): what
a read leaves and sends whatever ticks come in between, and its whole next state when none does. -/

namespace Sys2Proof.Proofs

open Sys2Proof Sys2Proof.Machine Sys2Proof.Safety Sys2Proof.Laws

/-! ### The read without ticks -/

/-- The transactor hands on every reply but an empty one, echo or not (45_bus.md R271). -/
theorem collectReply_eq (singleWire : Bool) (out : List Byte) {reply : Option (List Byte)} (h : reply ≠ some []) :
    collectReply singleWire out reply = reply := by
  have hline : dropEcho singleWire out (wireReceived singleWire out (reply.getD [])) = reply.getD [] := by
    cases singleWire
    · rfl
    · exact List.drop_left
  rw [collectReply, hline]
  match reply, h with
  | none, _ => rfl
  | some (b :: bs), _ => rfl

theorem nextSpi_of_cons {o : Oracle} {r : BitVec 40} {rest : List (BitVec 40)} (h : o.spi = r :: rest) :
    nextSpi o = (r, { o with spi := rest, served := o.served + 1 }) := by
  rw [nextSpi, h]

theorem nextUart_of_cons {o : Oracle} {r : Option (List Byte)} {rest : List (Option (List Byte))}
    (h : o.uart = r :: rest) : nextUart o = (r, { o with uart := rest, served := o.served + 1 }) := by
  rw [nextUart, h]

theorem nextFaultLevel_of_cons {o : Oracle} {l : Level} {rest : List Level} (h : o.faultPin = l :: rest) :
    nextFaultLevel o = (l, { o with faultPin := rest, served := o.served + 1 }) := by
  rw [nextFaultLevel, h]

theorem spiTxn_of_cons {s : State} (out : BitVec 40) {r : BitVec 40} {rest : List (BitVec 40)}
    (h : s.oracle.spi = r :: rest) :
    spiTxn s out = (r, { s with
      oracle := { s.oracle with spi := rest, served := s.oracle.served + 1 }
      history := s.history ++ [.txn (.spi out r)] }) := by
  rw [spiTxn, nextSpi_of_cons h]
  rfl

theorem pause_of_nil {s : State} (h : s.preempt = []) : pause s = s := preemptPoint_of_nil h

/-- Two replies in the queue, and no tick: the second is the one read (45_bus.md R264). -/
theorem regReadSpi_of_queued {s : State} (r : TmcReg) (hpre : s.preempt = []) {r₁ r₂ : BitVec 40}
    {rest : List (BitVec 40)} (h : s.oracle.spi = r₁ :: r₂ :: rest) :
    regReadSpi s r = (r₂, { s with
      oracle := { s.oracle with spi := rest, served := s.oracle.served + 2 }
      history := s.history ++
        [.txn (.spi (spiReadFrame s.params r) r₁), .txn (.spi (spiReadFrame s.params r) r₂)] }) := by
  have hfirst := spiTxn_of_cons (spiReadFrame s.params r) h
  have hqueue : (spiTxn s (spiReadFrame s.params r)).2.oracle.spi = r₂ :: rest := by rw [hfirst]
  have hpre' : (spiTxn s (spiReadFrame s.params r)).2.preempt = [] := hpre
  rw [regReadSpi, pause_of_nil hpre, pause_of_nil hpre', spiTxn_of_cons _ hqueue, hfirst]
  simp only [List.append_assoc]
  rfl

/-- A reply in the queue, and no tick (45_bus.md R265). -/
theorem regReadUart_of_queued {s : State} (r : TmcReg) (hpre : s.preempt = []) {reply : Option (List Byte)}
    {rest : List (Option (List Byte))} (h : s.oracle.uart = reply :: rest) (hne : reply ≠ some []) :
    regReadUart s r = (uartParse s.params r reply, { s with
      oracle := { s.oracle with uart := rest, served := s.oracle.served + 1 }
      history := s.history ++ [.txn (.uart (uartReadReq s.params r) reply)] }) := by
  rw [regReadUart, pause_of_nil hpre, uartReadTxn, nextUart_of_cons h, collectReply_eq _ _ hne]
  rfl

/-- A status read that completes. -/
theorem execDrvUpdateStatus_of_ok {s t : State} (h : updateStatus s = .ok t) : execDrvUpdateStatus s = .next t := by
  rw [execDrvUpdateStatus, h]
  rfl

theorem updateStatus_of_spi {s : State} (hc : s.params.model.cls = .tmcSpi)
    (ha : s.params.regAddr.drvStatus ≤ 0x7F) :
    updateStatus s = .ok { (regReadSpi s .drvStatus).2 with
      lastSpiStatus := spiStatusOf (regReadSpi s .drvStatus).1
      lastDrvStatus := spiDataOf (regReadSpi s .drvStatus).1
      status := decodeDrvStatusSpi (spiDataOf (regReadSpi s .drvStatus).1)
        (spiStatusOf (regReadSpi s .drvStatus).1) } := by
  have haddr : regAddrOk s.params .drvStatus = true := decide_eq_true ha
  rw [updateStatus, hc]
  exact if_pos haddr

theorem updateStatus_of_uart_fail {s : State} (hc : s.params.model.cls = .tmcUart)
    (ha : s.params.regAddr.drvStatus ≤ 0x7F) (hread : (regReadUart s .drvStatus).1 = none) :
    updateStatus s = .ok { (regReadUart s .drvStatus).2 with status := failsafe } := by
  have haddr : regAddrOk s.params .drvStatus = true := decide_eq_true ha
  rw [updateStatus, hc]
  refine (if_pos haddr).trans ?_
  rw [hread]

theorem updateStatus_of_uart {s : State} (hc : s.params.model.cls = .tmcUart)
    (ha : s.params.regAddr.drvStatus ≤ 0x7F) {d : Word} (hread : (regReadUart s .drvStatus).1 = some d) :
    updateStatus s = .ok { (regReadUart s .drvStatus).2 with
      lastDrvStatus := d, status := decodeDrvStatusUart s.params.uartDrvStatus d } := by
  have haddr : regAddrOk s.params .drvStatus = true := decide_eq_true ha
  rw [updateStatus, hc]
  refine (if_pos haddr).trans ?_
  rw [hread]

theorem updateStatus_of_generic {s : State} (hc : s.params.model.cls = .generic) :
    updateStatus s = .ok (genericStatus s) := by
  rw [updateStatus, hc]

/-- Settles O47, by the class of the model. -/
theorem statusReadDecodesReply : Obligations.StatusReadDecodesReply := by
  intro s ha hpre
  simp only [exec]
  refine ⟨fun hc r₁ r₂ rest hq => execDrvUpdateStatus_of_ok ?_, fun hc r rest hq hne => ?_,
    fun hc hpin => execDrvUpdateStatus_of_ok ?_, fun hc hpin l rest hq => execDrvUpdateStatus_of_ok ?_⟩
  · rw [updateStatus_of_spi hc ha, regReadSpi_of_queued _ hpre hq]
    rfl
  · have hread := regReadUart_of_queued .drvStatus hpre hq hne
    refine ⟨fun hfail => execDrvUpdateStatus_of_ok ?_, fun d hd => execDrvUpdateStatus_of_ok ?_⟩
    · rw [updateStatus_of_uart_fail hc ha (by rw [hread]; exact hfail), hread]
    · rw [updateStatus_of_uart hc ha (by rw [hread]; exact hd), hread]
  · rw [updateStatus_of_generic hc, genericStatus, hpin]
    rfl
  · rw [updateStatus_of_generic hc, genericStatus, hpin, nextFaultLevel_of_cons hq]
    rfl

/-! ### The read with any ticks -/

/-- `u` is `s` after a status read that sent these frames or datagrams, before the reply is decoded. -/
structure StatusRead (s u : State) (frames : List (BitVec 40)) (datagrams : List (List Byte)) : Prop where
  frame : OnlyDriverAndTicks s u
  shadows : u.shadows = s.shadows
  pins : u.pins = s.pins
  spi : spiSent u.history = spiSent s.history ++ frames
  uart : uartSent u.history = uartSent s.history ++ datagrams

/-- What `StatusPollReadsOnce` says of the state `t` that a status read leaves. -/
def ReadsStatus (s t : State) (frames : List (BitVec 40)) (datagrams : List (List Byte)) : Prop :=
  OnlyDriverAndTicks { s with status := t.status, lastDrvStatus := t.lastDrvStatus
                              lastSpiStatus := t.lastSpiStatus } t ∧
    t.shadows = s.shadows ∧ t.pins = s.pins ∧ spiSent t.history = spiSent s.history ++ frames ∧
    uartSent t.history = uartSent s.history ++ datagrams

/-- Decoding the reply writes the status registers alone. -/
theorem StatusRead.decoded {s u : State} {frames : List (BitVec 40)} {datagrams : List (List Byte)}
    (h : StatusRead s u frames datagrams) (st : DriverStatus) (d : Word) (b : Byte) :
    ReadsStatus s { u with status := st, lastDrvStatus := d, lastSpiStatus := b } frames datagrams := by
  refine ⟨?_, h.shadows, h.pins, h.spi, h.uart⟩
  have hframe := h.frame
  unfold OnlyDriverAndTicks at *
  rw [hframe]

theorem spiTxn_sends (s : State) (out : BitVec 40) :
    spiSent (spiTxn s out).2.history = spiSent s.history ++ [out] ∧
      uartSent (spiTxn s out).2.history = uartSent s.history := by
  simp [spiTxn, spiFrameOf, uartBytesOf]

theorem uartReadTxn_sends (s : State) (out : List Byte) :
    spiSent (uartReadTxn s out).2.history = spiSent s.history ∧
      uartSent (uartReadTxn s out).2.history = uartSent s.history ++ [out] := by
  simp [uartReadTxn, spiFrameOf, uartBytesOf]

/-- Two frames, with ticks before each (45_bus.md R264). -/
theorem regReadSpi_statusRead (s : State) (r : TmcReg) :
    StatusRead s (regReadSpi s r).2 (List.replicate 2 (spiReadFrame s.params r)) [] := by
  have hfirst := preemptPoint_driverSame s
  have hspi₁ := spiTxn_sends (preemptPoint s) (spiReadFrame s.params r)
  have hsecond := preemptPoint_driverSame (spiTxn (preemptPoint s) (spiReadFrame s.params r)).2
  have hspi₂ := spiTxn_sends (preemptPoint (spiTxn (preemptPoint s) (spiReadFrame s.params r)).2)
    (spiReadFrame s.params r)
  exact {
    frame := (stable_onlyDriverAndTicks s).regReadSpi r rfl
    shadows := hsecond.shadows.trans hfirst.shadows
    pins := hsecond.pins.trans hfirst.pins
    spi := hspi₂.1.trans (by rw [hsecond.spi, hspi₁.1, hfirst.spi, List.append_assoc]; rfl)
    uart := hspi₂.2.trans (by rw [hsecond.uart, hspi₁.2, hfirst.uart, List.append_nil]) }

/-- One request, with ticks before it (45_bus.md R265). -/
theorem regReadUart_statusRead (s : State) (r : TmcReg) :
    StatusRead s (regReadUart s r).2 [] [uartReadReq s.params r] := by
  have hpoint := preemptPoint_driverSame s
  have hsends := uartReadTxn_sends (preemptPoint s) (uartReadReq s.params r)
  exact {
    frame := (stable_onlyDriverAndTicks s).regReadUart r rfl
    shadows := hpoint.shadows
    pins := hpoint.pins
    spi := hsends.1.trans (by rw [hpoint.spi, List.append_nil])
    uart := hsends.2.trans (by rw [hpoint.uart]) }

/-- A generic model has no link (43_driver.md R215). -/
theorem genericStatus_readsStatus (s : State) : ReadsStatus s (genericStatus s) [] [] := by
  have hsilent (o : Oracle) : StatusRead s { s with oracle := o } [] [] :=
    ⟨rfl, rfl, rfl, (List.append_nil _).symm, (List.append_nil _).symm⟩
  unfold genericStatus
  split
  · exact (hsilent (nextFaultLevel s.oracle).2).decoded _ s.lastDrvStatus s.lastSpiStatus
  · exact (hsilent s.oracle).decoded _ s.lastDrvStatus s.lastSpiStatus

/-- The status read completes, on each class of model (43_driver.md R214). -/
theorem updateStatus_completes {s : State} (ha : s.params.regAddr.drvStatus ≤ 0x7F) :
    ∃ t, updateStatus s = .ok t ∧ ReadsStatus s t
      (if s.params.model.cls = .tmcSpi then List.replicate 2 (spiReadFrame s.params .drvStatus) else [])
      (if s.params.model.cls = .tmcUart then [uartReadReq s.params .drvStatus] else []) := by
  cases hc : s.params.model.cls with
  | generic => exact ⟨_, updateStatus_of_generic hc, genericStatus_readsStatus s⟩
  | tmcSpi => exact ⟨_, updateStatus_of_spi hc ha, (regReadSpi_statusRead s .drvStatus).decoded _ _ _⟩
  | tmcUart =>
    have hread := regReadUart_statusRead s .drvStatus
    cases hreply : (regReadUart s .drvStatus).1 with
    | none => exact ⟨_, updateStatus_of_uart_fail hc ha hreply, hread.decoded _ _ _⟩
    | some d => exact ⟨_, updateStatus_of_uart hc ha hreply, hread.decoded _ _ _⟩

/-- Settles O48: the poll's guard, and the read by the class of the model. -/
theorem statusPollReadsOnce : Obligations.StatusPollReadsOnce := by
  intro s
  simp only [exec]
  refine ⟨fun hready => congrArg Host.Outcome.next (if_neg ?_),
    fun hready => ⟨_, congrArg Host.Outcome.next (if_pos hready), rfl⟩, fun ha => ?_⟩
  · rw [hready]
    decide
  · obtain ⟨t, hread, hleft⟩ := updateStatus_completes ha
    exact ⟨t, execDrvUpdateStatus_of_ok hread, hleft⟩

end Sys2Proof.Proofs
end

section
/-! PROOFS. The register codec (44_tmc_codec.md R230 to R247): each packed value bit by bit, and from the bits the fields
that read back. -/

namespace Sys2Proof.Proofs

open Sys2Proof Sys2Proof.Machine Sys2Proof.Safety Sys2Proof.Laws

/-! ### Packed fields -/

/-- The mask of a field's width keeps all of the field. -/
theorem setWidth_and_lowMask {k : Nat} (x : BitVec k) :
    x.setWidth 32 &&& BitVec.ofNat 32 (2 ^ k - 1) = x.setWidth 32 := by
  apply BitVec.eq_of_getLsbD_eq
  intro n hn
  rw [BitVec.getLsbD_and, BitVec.getLsbD_ofNat, Nat.testBit_two_pow_sub_one, BitVec.getLsbD_setWidth]
  by_cases hk : n < k
  · simp [hn, hk]
  · simp [BitVec.getLsbD_of_ge x n (Nat.le_of_not_lt hk)]

/-- 44_tmc_codec.md R233: the three fields at their places. -/
theorem packIholdIrun_eq (h r : BitVec 5) (dly : BitVec 4) :
    packIholdIrun (h.setWidth 32) (r.setWidth 32) (dly.setWidth 32) =
      h.setWidth 32 ||| (r.setWidth 32 <<< 8) ||| (dly.setWidth 32 <<< 16) := by
  have hh : h.setWidth 32 &&& 0x1F#32 = h.setWidth 32 := setWidth_and_lowMask h
  have hr : r.setWidth 32 &&& 0x1F#32 = r.setWidth 32 := setWidth_and_lowMask r
  have hdly : dly.setWidth 32 &&& 0xF#32 = dly.setWidth 32 := setWidth_and_lowMask dly
  rw [packIholdIrun, hh, hr, hdly]

/-- 44_tmc_codec.md R234 undoes R233: the fields lie apart. -/
theorem unpackIholdIrun_packIholdIrun (h r : BitVec 5) (dly : BitVec 4) :
    unpackIholdIrun (packIholdIrun (h.setWidth 32) (r.setWidth 32) (dly.setWidth 32)) = (h, r, dly) := by
  rw [packIholdIrun_eq, unpackIholdIrun]
  refine Prod.ext ?_ (Prod.ext ?_ ?_)
  · ext i hi
    simp [hi, show i < 32 by omega, show i < 8 by omega, show i < 16 by omega]
  · ext i hi
    simp [hi, show 8 + i < 32 by omega, show 8 + i < 16 by omega, BitVec.getLsbD_of_ge h (8 + i) (by omega)]
  · ext i hi
    simp [hi, show 16 + i < 32 by omega, BitVec.getLsbD_of_ge h (16 + i) (by omega),
      BitVec.getLsbD_of_ge r (16 + i - 8) (by omega)]

/-- 44_tmc_codec.md R236: bits 27:24 are MRES, the others those of the base. -/
theorem getLsbD_chopconf (base : Word) (mres : BitVec 4) (n : Nat) :
    (chopconf base (mres.setWidth 32)).getLsbD n =
      if 24 ≤ n ∧ n ≤ 27 then mres.getLsbD (n - 24) else base.getLsbD n := by
  have hmres : mres.setWidth 32 &&& 0xF#32 = mres.setWidth 32 := setWidth_and_lowMask mres
  have hmask : ∀ k, k < 32 → (0xF0FFFFFF#32).getLsbD k = !decide (24 ≤ k ∧ k ≤ 27) := by decide
  rw [chopconf, hmres]
  by_cases hn : n < 32
  · rw [BitVec.getLsbD_or, BitVec.getLsbD_and, hmask n hn, BitVec.getLsbD_shiftLeft, BitVec.getLsbD_setWidth]
    by_cases hfield : 24 ≤ n ∧ n ≤ 27
    · simp [hfield, hn, show n - 24 < 32 by omega]
    · rw [if_neg hfield, decide_eq_false hfield]
      by_cases hlow : n < 24
      · simp [hlow]
      · simp [BitVec.getLsbD_of_ge mres (n - 24) (by omega)]
  · rw [if_neg (by omega), BitVec.getLsbD_of_ge _ n (by omega), BitVec.getLsbD_of_ge base n (by omega)]

theorem mresOf_chopconf (base : Word) (mres : BitVec 4) : mresOf (chopconf base (mres.setWidth 32)) = mres := by
  ext i hi
  rw [mresOf, BitVec.getElem_extractLsb', getLsbD_chopconf, if_pos (by omega), Nat.add_sub_cancel_left,
    BitVec.getLsbD_eq_getElem hi]

theorem spiStatusOf_spiFrame (a : Byte) (d : Word) : spiStatusOf (spiFrame a d) = a :=
  BitVec.extractLsb'_append_eq_left

theorem spiDataOf_spiFrame (a : Byte) (d : Word) : spiDataOf (spiFrame a d) = d :=
  BitVec.extractLsb'_append_eq_right

/-! ### The status decoders -/

/-- 44_tmc_codec.md R240: `fault` is the or of the bits 30 to 25. -/
theorem decodeDrvStatusSpi_fault {d : Word} {b : Byte} (h : ¬(d = 0#32 ∧ b = 0#8)) :
    (decodeDrvStatusSpi d b).fault = [30, 29, 28, 27, 26, 25].any d.getLsbD := by
  simp [decodeDrvStatusSpi, h, Bool.or_assoc]

theorem decodeDrvStatusSpi_fault_iff {d : Word} {b : Byte} (h : ¬(d = 0#32 ∧ b = 0#8)) :
    (decodeDrvStatusSpi d b).fault = true ↔ ∃ n, 25 ≤ n ∧ n ≤ 30 ∧ d.getLsbD n = true := by
  rw [decodeDrvStatusSpi_fault h, List.any_eq_true]
  refine exists_congr fun n => ?_
  have hmem : n ∈ [30, 29, 28, 27, 26, 25] ↔ 25 ≤ n ∧ n ≤ 30 := by
    simp
    omega
  rw [hmem, and_assoc]

/-- 44_tmc_codec.md R247: `fault` is the or of the six flags. -/
theorem decodeDrvStatusUart_fault (d : Word) :
    (decodeDrvStatusUart UartStatusLayout.tmc22xx d).fault = [0, 1, 2, 3, 6, 7].any d.getLsbD := by
  simp [decodeDrvStatusUart, UartStatusLayout.tmc22xx, Bool.or_assoc]

/-! ### GCONF and the address byte -/

theorem gconfSpi_eq (d : Word) : gconfSpi d = flagBit true 0 ||| flagBit (decide (d = 4#32)) 2 := by
  by_cases h : d = 4#32
  · simp [h, gconfSpi, Config.decayStealthChop, flagBit]
  · simp [h, gconfSpi, Config.decayStealthChop, flagBit]

theorem gconfUart_eq (p : Params) (d : Word) :
    gconfUart p d = p.uartGconfBase ||| flagBit (decide (d = 3#32) == p.uartSpreadPolarity) 2 := rfl

/-- 44_tmc_codec.md R230: bit 7 marks a write, and an address in its domain leaves it free. -/
theorem addrByte_toNat {p : Params} {r : TmcReg} (write : Bool) (h : p.regAddr.addr r ≤ 0x7F) :
    (addrByte p r write).toNat = p.regAddr.addr r + (if write = true then 128 else 0) := by
  have hlt : p.regAddr.addr r < 2 ^ 7 := by omega
  have hmod : p.regAddr.addr r % 2 ^ 8 = p.regAddr.addr r := Nat.mod_eq_of_lt (by omega)
  cases write with
  | true =>
    have hbyte : (addrByte p r true).toNat = p.regAddr.addr r % 2 ^ 8 ||| 2 ^ 7 * 1 := BitVec.toNat_or ..
    rw [hbyte, hmod, Nat.or_comm, ← Nat.two_pow_add_eq_or_of_lt hlt, Nat.add_comm]
    rfl
  | false =>
    have hbyte : (addrByte p r false).toNat = p.regAddr.addr r % 2 ^ 8 &&& (2 ^ 7 - 1) := BitVec.toNat_and ..
    rw [hbyte, hmod, Nat.and_two_pow_sub_one_eq_mod, Nat.mod_eq_of_lt hlt]
    rfl

/-- Settles O50: the fields from the bits of the packed values, and the decoder by whether the reply is all zero. -/
theorem codecFieldsReadBack : Obligations.CodecFieldsReadBack := by
  refine ⟨unpackIholdIrun_packIholdIrun, fun base mres => ⟨mresOf_chopconf base mres, fun n hn => ?_⟩,
    fun a d => ⟨spiStatusOf_spiFrame a d, spiDataOf_spiFrame a d⟩, fun d b => ⟨?_, fun h => ?_⟩⟩
  · rw [getLsbD_chopconf, if_neg hn]
  · rintro rfl rfl
    decide
  · have hfault := decodeDrvStatusSpi_fault_iff h
    simp only [decodeDrvStatusSpi, if_neg h, true_and] at hfault ⊢
    exact hfault

/-- Settles O51: GCONF is its base with one more flag, and `fault` of the UART decoder is the or of its list of bits. -/
theorem codecFormsRegisterBits : Obligations.CodecFormsRegisterBits := by
  refine ⟨fun d n => ?_, fun p d n => ?_, fun p r write h => addrByte_toNat write h,
    fun d => ⟨rfl, rfl, rfl, rfl, rfl, rfl, rfl, rfl, ?_⟩⟩
  · rw [gconfSpi_eq, BitVec.getLsbD_or, getLsbD_flagBit _ (by decide), getLsbD_flagBit _ (by decide), Bool.true_and,
      Bool.and_comm]
  · rw [gconfUart_eq, BitVec.getLsbD_or, getLsbD_flagBit _ (by decide), Bool.and_comm]
  · rw [decodeDrvStatusUart_fault, List.any_eq_true]

end Sys2Proof.Proofs
end

section
/-! PROOFS. The UART datagrams (30_encoding.md R96, 44_tmc_codec.md R243, R245): the data bytes of a formed datagram give
back the data word, so the parser accepts exactly what the layout forms. -/

namespace Sys2Proof.Proofs

open Sys2Proof Sys2Proof.Machine Sys2Proof.Safety Sys2Proof.Laws

/-- Byte `k` of a word, put back at its place, is the word's bits of that byte alone. -/
theorem getLsbD_byte_at_place (v : Word) (k : Nat) {n : Nat} (hn : n < 32) :
    (((v.extractLsb' (8 * k) 8).setWidth 32) <<< (8 * k)).getLsbD n = (decide (n / 8 = k) && v.getLsbD n) := by
  simp only [BitVec.getLsbD_shiftLeft, BitVec.getLsbD_setWidth, BitVec.getLsbD_extractLsb', hn, decide_true,
    Bool.true_and]
  by_cases hlow : n < 8 * k
  · have hk : n / 8 ≠ k := by omega
    simp [hlow, hk]
  · rw [show 8 * k + (n - 8 * k) = n by omega]
    by_cases hk : n / 8 = k
    · simp [hlow, hk, show n - 8 * k < 8 by omega, show n - 8 * k < 32 by omega]
    · simp [hk, show ¬n - 8 * k < 8 by omega]

/-- The bytes that a layout appends carry the data word's bits of every data byte in the layout, and no other bit. -/
theorem uartEncode_carries (c : UartCrc) (dev reg : Byte) (v : Word) (layout : List UartField) (done : List Byte) :
    ∃ bs, uartEncode c dev reg v layout done = done ++ bs ∧
      ∀ n, n < 32 → (uartData layout bs).getLsbD n = (decide (.data (n / 8) ∈ layout) && v.getLsbD n) := by
  induction layout generalizing done with
  | nil => exact ⟨[], (List.append_nil done).symm, fun n _ => by simp [uartData]⟩
  | cons x xs ih =>
    obtain ⟨bs, hbytes, hbits⟩ := ih (done ++ [uartFieldByte c dev reg v done x])
    refine ⟨uartFieldByte c dev reg v done x :: bs, by rw [uartEncode, hbytes, List.append_assoc]; rfl,
      fun n hn => ?_⟩
    cases x with
    | const _ | device | register | crc _ => simp [uartData, hbits n hn]
    | data k =>
      simp only [uartData, uartFieldByte, BitVec.getLsbD_or, getLsbD_byte_at_place v k hn, hbits n hn]
      by_cases hk : n / 8 = k
      · simp [hk]
      · simp [hk]

/-- A reply whose layout carries every data byte gives back its data word. -/
theorem uartData_uartReply {p : Params} (h : ∀ k, k < 4 → .data k ∈ p.uartFraming.replyLayout)
    (r : TmcReg) (v : Word) : uartData p.uartFraming.replyLayout (uartReply p r v) = v := by
  obtain ⟨bs, hbytes, hbits⟩ :=
    uartEncode_carries p.uartFraming.crc (uartDevice p) (addrByte p r false) v p.uartFraming.replyLayout []
  rw [uartReply, hbytes, List.nil_append]
  ext n hn
  have hmem : UartField.data (n / 8) ∈ p.uartFraming.replyLayout := h _ (by omega)
  simpa [hmem, hn] using hbits n hn

/-- 44_tmc_codec.md R245: the parser accepts the replies that the framing forms, and no other. -/
theorem uartParse_eq_some_iff {p : Params} (h : ∀ k, k < 4 → .data k ∈ p.uartFraming.replyLayout)
    (r : TmcReg) (v : Word) (reply : Option (List Byte)) :
    uartParse p r reply = some v ↔ reply = some (uartReply p r v) := by
  constructor
  · intro hparse
    cases reply with
    | none => cases hparse
    | some bs =>
      simp only [uartParse, Option.ite_none_right_eq_some, Option.some.injEq] at hparse
      obtain ⟨hformed, hdata⟩ := hparse
      rw [hdata] at hformed
      rw [hformed]
  · rintro rfl
    simp only [uartParse, uartData_uartReply h r v, if_true]

/-- Settles O52: each default layout, field by field, and the acceptance of the formed replies alone. -/
theorem uartParserAcceptsWellFormedReplies : Obligations.UartParserAcceptsWellFormedReplies := by
  intro p r v
  refine ⟨fun hlayout => ?_, fun hlayout => ?_, fun hlayout reply => ?_, fun h => uartParse_eq_some_iff h r v⟩
  · rw [uartWrite, hlayout]
    rfl
  · rw [uartReadReq, hlayout]
    rfl
  · have hall : ∀ k, k < 4 → .data k ∈ p.uartFraming.replyLayout := by
      rw [hlayout]
      decide
    rw [uartParse_eq_some_iff hall, uartReply, hlayout]
    rfl

end Sys2Proof.Proofs
end

section
/-! PROOFS. A host command that does not answer OK writes no state (60_exceptions.md R283, R286): every body refuses before it
writes anything, but for the DRVINIT that is refused for its configuration. -/

namespace Sys2Proof.Proofs

open Sys2Proof Sys2Proof.Machine Sys2Proof.Safety Sys2Proof.Laws

/-! ### How a body may fail -/

/-- The results with which a body refuses and writes nothing: FAULT is a model fault's alone, and a DRVINIT that is not
BUSY writes `driverReady` (log 11). -/
def RefusesWith (i : Instr) (r : Result) : Prop := r ≠ .fault ∧ (i = .drvInit → r = .busy)

theorem refusesWith_of_ne {i : Instr} {r : Result} (hi : i ≠ .drvInit) (hr : r ≠ .fault) : RefusesWith i r :=
  ⟨hr, fun h => absurd h hi⟩

/-- The end of a body that started from `s`: it leaves another state only when it completes, or as a DRVINIT refused for its
configuration. -/
def FailsCleanly (i : Instr) (s : State) : Answer → Prop
  | .done _ _ => True
  | .raise r => RefusesWith i r
  | .failed t r => i = .drvInit ∧ r ≠ .busy ∧ r ≠ .fault ∧ t = { s with driverReady := false }
  | .modelFault _ => True

/-- The last event of a history that ends in a response is that response. -/
theorem response_eq_of_history {h l : List Event} {op op' : Byte} {r r' : Result} {v v' : Word}
    (e : l ++ [.resp op' r' v'] = h ++ [.resp op r v]) : op' = op ∧ r' = r := by
  have hlast : Event.resp op' r' v' = .resp op r v := List.singleton_inj.1 (List.append_inj' e rfl).2
  injection hlast with hop hr
  exact ⟨hop, hr⟩

/-- The frame of a host command keeps a clean failure clean: its own parts are the grace tick, the response and the model
fault. -/
theorem hostCommand_failure {i : Instr} {s t : State} {op op' : Byte} {body : State → Answer} {h : List Event}
    {r : Result} {v : Word} (hbody : FailsCleanly i (beginMainLoop s) (body (beginMainLoop s)))
    (e : hostCommand s op' body = .next t) (hhist : t.history = h ++ [.resp op r v]) (hr : r ≠ .ok) :
    (r = .fault ∧ ∃ f, t = answered { s with faults := s.faults.insert f } op r 0#32) ∨
    (r ≠ .fault ∧ ¬(i = .drvInit ∧ r ≠ .busy) ∧ t = answered s op r 0#32) ∨
    (r ≠ .fault ∧ i = .drvInit ∧ r ≠ .busy ∧ t = answered { s with driverReady := false } op r 0#32) := by
  rcases hostCommand_cases s op' body with ⟨u, w, hb, e'⟩ | ⟨r', hb, e'⟩ | ⟨u, r', hb, e'⟩ | ⟨f, hb, e'⟩ <;>
    rw [e'] at e <;> cases e <;> obtain ⟨rfl, rfl⟩ := response_eq_of_history hhist <;> rw [hb] at hbody
  · exact absurd rfl hr
  · obtain ⟨hfault, hbusy⟩ := hbody
    exact .inr (.inl ⟨hfault, fun ⟨hdrv, hne⟩ => hne (hbusy hdrv), rfl⟩)
  · obtain ⟨hdrv, hbusy, hfault, rfl⟩ := hbody
    exact .inr (.inr ⟨hfault, hdrv, hbusy, rfl⟩)
  · exact .inl ⟨rfl, f, rfl⟩

section Bodies

variable {i : Instr} {s : State}

/-- A guard that refuses, before the rest of the body. -/
theorem failsCleanly_guard {c : Prop} [Decidable c] {r : Result} {a : Answer} (hr : RefusesWith i r)
    (ha : FailsCleanly i s a) : FailsCleanly i s (if c then .raise r else a) := by
  split
  · exact hr
  · exact ha

theorem failsCleanly_storeChecked (v : Int) (k : Word → State) : FailsCleanly i s (storeChecked v k) := by
  unfold storeChecked
  split <;> trivial

theorem failsCleanly_valueChecked (t : State) (v : Int) : FailsCleanly i s (valueChecked t v) := by
  unfold valueChecked
  split <;> trivial

/-- A parameter command goes on with its parameter, or refuses an id that names none. -/
theorem failsCleanly_paramOfField {p : BitVec 3} {k : ParamId → Answer} (hi : i ≠ .drvInit)
    (hk : ∀ id, FailsCleanly i s (k id)) :
    FailsCleanly i s (match paramOfField p with
      | none => .raise .illegal
      | some id => k id) := by
  cases paramOfField p with
  | none => exact refusesWith_of_ne hi nofun
  | some id => exact hk id

/-- The end of a body by the verdict on a configuration, which refuses with INVALID or UNSUPPORTED alone (43_driver.md
R198). -/
theorem failsCleanly_verdict {p : Params} {c : DriverConfig} {refused : Result → Answer} {accepted : Answer}
    (hrefused : ∀ r, r = .invalid ∨ r = .unsupported → FailsCleanly i s (refused r))
    (haccepted : FailsCleanly i s accepted) :
    FailsCleanly i s (match validateConfig p c with
      | .refuse r => refused r
      | .unmodelled => .modelFault .unmodelled
      | .ok => accepted) := by
  cases hv : validateConfig p c with
  | refuse r => exact hrefused r (validateConfig_refuse hv)
  | unmodelled => trivial
  | ok => exact haccepted

end Bodies

/-! ### Every host command -/

/-- `f`, the meaning of `i`, is a host command whose body fails cleanly from every state. -/
def FailsOnlyCleanly (i : Instr) (f : State → Host.Outcome State Fault Refusal) : Prop :=
  ∃ op body, (∀ s, f s = hostCommand s op body) ∧ ∀ s, FailsCleanly i s (body s)

/-- A host command, by its body. -/
theorem failsOnlyCleanly_of_body {i : Instr} {f : State → Host.Outcome State Fault Refusal} {op : Byte}
    {body : State → Answer} (hf : ∀ s, f s = hostCommand s op body) (hbody : ∀ s, FailsCleanly i s (body s)) :
    FailsOnlyCleanly i f := ⟨op, body, hf, hbody⟩

section Bodies

variable {i : Instr} {f : State → Host.Outcome State Fault Refusal} {op : Byte}

/-- A command that always completes. -/
theorem failsOnlyCleanly_done {g : State → State} {v : State → Word}
    (hf : ∀ s, f s = hostCommand s op fun t => .done (g t) (v t)) : FailsOnlyCleanly i f :=
  failsOnlyCleanly_of_body hf fun _ => trivial

theorem failsOnlyCleanly_storeChecked {v : State → Int} {k : State → Word → State}
    (hf : ∀ s, f s = hostCommand s op fun t => storeChecked (v t) (k t)) : FailsOnlyCleanly i f :=
  failsOnlyCleanly_of_body hf fun _ => failsCleanly_storeChecked _ _

/-- A park write refuses `m = 0` before it computes (40_position.md R113, R115). -/
theorem failsOnlyCleanly_park {m : BitVec 16} {v : State → Int} {k : State → Word → State} (hi : i ≠ .drvInit)
    (hf : ∀ s, f s = hostCommand s op fun t => if m = 0#16 then .raise .invalid else storeChecked (v t) (k t)) :
    FailsOnlyCleanly i f :=
  failsOnlyCleanly_of_body hf fun _ => failsCleanly_guard (refusesWith_of_ne hi nofun) (failsCleanly_storeChecked _ _)

theorem failsOnlyCleanly_valueChecked {v : State → Int} (hf : ∀ s, f s = hostCommand s op fun t => valueChecked t (v t)) :
    FailsOnlyCleanly i f := failsOnlyCleanly_of_body hf fun _ => failsCleanly_valueChecked _ _

end Bodies

theorem execResetPos_failsOnlyCleanly (v : Word) : FailsOnlyCleanly (.resetPos v) (execResetPos v) :=
  failsOnlyCleanly_of_body (fun _ => rfl) fun _ =>
    failsCleanly_guard (refusesWith_of_ne (by nofun) (by decide)) trivial

theorem execBlDisable_failsOnlyCleanly : FailsOnlyCleanly .blDisable execBlDisable := by
  refine failsOnlyCleanly_of_body (fun _ => rfl) fun s => ?_
  refine failsCleanly_guard (refusesWith_of_ne (by decide) (by decide))
    (failsCleanly_guard (refusesWith_of_ne (by decide) (by decide)) ?_)
  split <;> trivial

theorem execBlEnable_failsOnlyCleanly : FailsOnlyCleanly .blEnable execBlEnable := by
  refine failsOnlyCleanly_of_body (fun _ => rfl) fun s => ?_
  refine failsCleanly_guard (refusesWith_of_ne (by decide) (by decide))
    (failsCleanly_guard (refusesWith_of_ne (by decide) (by decide)) ?_)
  split <;> trivial

theorem execSetBlAmount_failsOnlyCleanly (a : Word) : FailsOnlyCleanly (.setBlAmount a) (execSetBlAmount a) := by
  have hinvalid : RefusesWith (.setBlAmount a) .invalid := refusesWith_of_ne nofun nofun
  refine failsOnlyCleanly_of_body (fun _ => rfl) fun s => ?_
  exact failsCleanly_guard (refusesWith_of_ne (by nofun) (by decide))
    (failsCleanly_guard hinvalid (failsCleanly_guard hinvalid trivial))

theorem execSetFreq_failsOnlyCleanly (f : Word) : FailsOnlyCleanly (.setFreq f) (execSetFreq f) := by
  refine failsOnlyCleanly_of_body (fun _ => rfl) fun s => ?_
  split <;> trivial

theorem execSetEnable_failsOnlyCleanly (on : Bool) : FailsOnlyCleanly (.setEnable on) (execSetEnable on) := by
  refine failsOnlyCleanly_of_body (fun _ => rfl) fun s => ?_
  refine failsCleanly_guard (refusesWith_of_ne (by nofun) (by decide)) ?_
  split <;> trivial

/-- DRVINIT: BUSY writes nothing, a refused configuration clears `driverReady`, and a bad parameter is found before the
first write (logs 9, 11). -/
theorem execDrvInit_failsOnlyCleanly : FailsOnlyCleanly .drvInit execDrvInit := by
  have hbusy : RefusesWith .drvInit .busy := ⟨by decide, fun _ => rfl⟩
  refine failsOnlyCleanly_of_body (fun _ => rfl) fun s => failsCleanly_guard hbusy (failsCleanly_verdict ?_ ?_)
  · rintro r (rfl | rfl) <;> exact ⟨rfl, by decide, by decide, rfl⟩
  · split <;> trivial

theorem execValParam_failsOnlyCleanly (p : BitVec 3) (v : Word) :
    FailsOnlyCleanly (.valParam p v) (execValParam p v) := by
  refine failsOnlyCleanly_of_body (fun _ => rfl) fun s => ?_
  refine failsCleanly_paramOfField nofun fun id => failsCleanly_verdict ?_ trivial
  rintro r (rfl | rfl) <;> exact refusesWith_of_ne nofun nofun

theorem execSetParam_failsOnlyCleanly (p : BitVec 3) (v : Word) :
    FailsOnlyCleanly (.setParam p v) (execSetParam p v) := by
  refine failsOnlyCleanly_of_body (fun _ => rfl) fun s => failsCleanly_paramOfField nofun fun id => ?_
  refine failsCleanly_guard (refusesWith_of_ne (by nofun) (by decide)) (failsCleanly_verdict ?_ trivial)
  rintro r (rfl | rfl) <;> exact refusesWith_of_ne nofun nofun

theorem execGetParam_failsOnlyCleanly (p : BitVec 3) : FailsOnlyCleanly (.getParam p) (execGetParam p) :=
  failsOnlyCleanly_of_body (fun _ => rfl) fun _ => failsCleanly_paramOfField nofun fun _ => trivial

/-- Every host command, well-formed or not. -/
theorem exec_failsOnlyCleanly {i : Instr} (hhost : i.isHostCommand = true) : FailsOnlyCleanly i (exec i) := by
  cases i with
  | resetPos v => exact execResetPos_failsOnlyCleanly v
  | setInstr v => exact failsOnlyCleanly_storeChecked (f := execSetInstr v) fun _ => rfl
  | setInstrPark v m => exact failsOnlyCleanly_park (f := execSetInstrPark v m) nofun fun _ => rfl
  | setTarget v => exact failsOnlyCleanly_storeChecked (f := execSetTarget v) fun _ => rfl
  | setTargetPark v m => exact failsOnlyCleanly_park (f := execSetTargetPark v m) nofun fun _ => rfl
  | setSync on => exact failsOnlyCleanly_done (f := execSetSync on) fun _ => rfl
  | blDisable => exact execBlDisable_failsOnlyCleanly
  | blEnable => exact execBlEnable_failsOnlyCleanly
  | setBlAmount a => exact execSetBlAmount_failsOnlyCleanly a
  | markOrigin => exact failsOnlyCleanly_done (f := execMarkOrigin) fun _ => rfl
  | getMotor => exact failsOnlyCleanly_done (f := execGetMotor) fun _ => rfl
  | getInstr => exact failsOnlyCleanly_valueChecked (f := execGetInstr) fun _ => rfl
  | getTarget => exact failsOnlyCleanly_valueChecked (f := execGetTarget) fun _ => rfl
  | getBl => exact failsOnlyCleanly_done (f := execGetBl) fun _ => rfl
  | getTDist => exact failsOnlyCleanly_valueChecked (f := execGetTDist) fun _ => rfl
  | getOtDist => exact failsOnlyCleanly_valueChecked (f := execGetOtDist) fun _ => rfl
  | getRampDir => exact failsOnlyCleanly_done (f := execGetRampDir) fun _ => rfl
  | setFreq f => exact execSetFreq_failsOnlyCleanly f
  | getFreq => exact failsOnlyCleanly_done (f := execGetFreq) fun _ => rfl
  | setEnable on => exact execSetEnable_failsOnlyCleanly on
  | setSlew on => exact failsOnlyCleanly_done (f := execSetSlew on) fun _ => rfl
  | getMode => exact failsOnlyCleanly_done (f := execGetMode) fun _ => rfl
  | getSlewRatio => exact failsOnlyCleanly_done (f := execGetSlewRatio) fun _ => rfl
  | drvInit => exact execDrvInit_failsOnlyCleanly
  | valParam p v => exact execValParam_failsOnlyCleanly p v
  | setParam p v => exact execSetParam_failsOnlyCleanly p v
  | getParam p => exact execGetParam_failsOnlyCleanly p
  | getStatus => exact failsOnlyCleanly_done (f := execGetStatus) fun _ => rfl
  | calibrate => exact failsOnlyCleanly_of_body (f := execCalibrate) (fun _ => rfl) fun _ => refusesWith_of_ne nofun nofun
  | drvMsTrack | drvMsSlew | drvDecayTrack | drvDecaySlew | drvUpdateStatus | drvPower | evTickStd | evTickFast
  | evModePoll | evStatusPoll => cases hhost

/-- Settles O19, by the body of each command and the frame around it. -/
theorem failedCommandsWriteNoState : Obligations.FailedCommandsWriteNoState := by
  intro i s t h r v _ hhost e hhist hr
  obtain ⟨op, body, hexec, hbody⟩ := exec_failsOnlyCleanly hhost
  exact hostCommand_failure (hbody (beginMainLoop s)) ((hexec s).symm.trans e) hhist hr

end Sys2Proof.Proofs
end
